-- ==== Sys2Proof/Word.lean ====
section
/-! DEFINITION. The widths of the block's quantities (spec/00_scope.md R7, R8, R10). Bit 0 is the least significant bit of
every word. -/

namespace Sys2Proof

/-- `DATA_W` = 8: every datum the block moves (R7, R44). -/
abbrev Byte := BitVec 8

/-- `ADDR_W` = 16: a CPU address (R7, R27). -/
abbrev Address := BitVec 16

/-- `OFFSET_W` = 16: a region-relative, 0-based offset (R7, R35). -/
abbrev Offset := BitVec 16

/-- `DEVID_W` = 8: the index of a device in the pool (R8, R57). -/
abbrev DevId := BitVec 8

/-- `FINFO_W` = 8: what a device reports with a DeviceFault; never interpreted (R8, R100). -/
abbrev FaultInfo := BitVec 8

/-- A word at one of the block's two input ports: a 32-bit request at the request port (format REQ32, R53), or a 16-bit
address at the input of the AddressDecoder alone (format A16, R62; log entry 1). -/
inductive PortWord where
  | request (w : BitVec 32)
  | address (a : Address)
deriving DecidableEq, Repr

/-- How many bits the opcode table gives a row of the word's format. -/
def PortWord.width : PortWord → Nat
  | .request _ => 32
  | .address _ => 16

/-- The word's bits as a number, bit 0 the least significant (R10). -/
def PortWord.bits : PortWord → Nat
  | .request w => w.toNat
  | .address a => a.toNat

end Sys2Proof
end

