-- ==== Sys2Proof/Config.lean ====
section
/-! DEFINITION. What is fixed for the block: the four region kinds, the address-space description, the parameters of
spec/00_scope.md R7; and the free values the spec leaves OPEN (R8): RAM_INIT and the behaviour of the devices. -/

namespace Sys2Proof

/-- The four region kinds, a closed set (spec/20_memory.md R30). -/
inductive Kind where
  | internalRAM
  | ppuRegisters
  | apuIORegisters
  | cartridge
deriving DecidableEq, Repr

/-- One region of the address space: "{base, size, kind, mirror-period (optional)}" (spec/10_state.md R14). -/
structure Region where
  base : Nat
  size : Nat
  kind : Kind
  mirrorPeriod : Option Nat
deriving DecidableEq, Repr

/-- `AddressSpace`, the constant of spec/10_state.md R14; `size` is the size of the address range
(spec/90_conflicts.md C4). -/
def Config.addressSpace : List Region :=
  [ ⟨0x0000, 0x2000, .internalRAM, some 0x0800⟩,
    ⟨0x2000, 0x2000, .ppuRegisters, some 0x0008⟩,
    ⟨0x4000, 0x0020, .apuIORegisters, none⟩,
    ⟨0x4020, 0xBFE0, .cartridge, none⟩ ]

/-- The number of offsets a kind has: the storage sizes `RAM_SIZE`, `PPU_SIZE`, `APU_SIZE`, `CART_SIZE`
(spec/00_scope.md R7; spec/20_memory.md R35). -/
def Config.storageSize : Kind → Nat
  | .internalRAM => 0x0800
  | .ppuRegisters => 0x0008
  | .apuIORegisters => 0x0020
  | .cartridge => 0xBFE0

/-- The most devices a pool can have: `1 ≤ NDEV ≤ 256` (spec/00_scope.md R8). -/
def Config.maxDevices : Nat := 256

/-- `RAM_INIT`, OPEN (R8, spec/20_memory.md R38, D19): what byte `o` of RAM device `d` holds before the first write to it.
A FREE VALUE (log entry 8). -/
opaque Config.ramInit : DevId → Offset → Byte

/-- `POOL[d]` for an external device, OPEN (R8, spec/20_memory.md R36, D18): device `d`, in internal state `st`, is given the
exchange word `DREQ` and yields its new internal state and the answer word `DRSP` (spec/30_encoding.md R60). The last
argument is a fresh draw, so that one state and one request may have more than one outcome. A FREE VALUE (log entries 6
and 7). A device sees nothing but the `DREQ` word: not the address, not the kind, not the requester (R32). -/
opaque Config.externalExchange : (d : DevId) → (st : Nat) → (dreq : BitVec 26) → (draw : Nat) → Nat × BitVec 9

/-- What an external device does on its own between transactions (spec/10_state.md R18, spec/91_not_in_source.md N9), OPEN:
device `d`, in internal state `st`, goes to another internal state; the last argument is a fresh draw. A FREE VALUE (log
entry 14). -/
opaque Config.externalActivity : (d : DevId) → (st : Nat) → (draw : Nat) → Nat

end Sys2Proof
end

