-- ==== Sys2Proof/Syntax.lean ====
section
/-! DEFINITION. The rows of spec/opcode_table.json as one inductive: four request operations (format REQ32,
spec/30_encoding.md R55) and thirteen region rows (format A16, R62). -/

namespace Sys2Proof

/-- One constructor per row of the opcode table. A region row's operand `low` is what its mask leaves free: the address bits
below the row's fixed high bits, so that every term is an address of its row. -/
inductive Instr where
  /-- `READ a` (spec/41_access.md R81). -/
  | read (a : Address)
  /-- `WRITE a, v` (spec/41_access.md R82). -/
  | write (a : Address) (v : Byte)
  /-- `INSTALL k, d` (spec/42_install.md R91). -/
  | install (k : Kind) (d : DevId)
  /-- `DECODE a` (spec/40_decode.md R69). -/
  | decode (a : Address)
  /-- `REGION.InternalRAM`, $0000 to $1FFF (spec/40_decode.md R70). -/
  | regionInternalRAM (low : BitVec 13)
  /-- `REGION.PPURegisters`, $2000 to $3FFF (R71). -/
  | regionPPURegisters (low : BitVec 13)
  /-- `REGION.APUIORegisters`, $4000 to $401F (R72). -/
  | regionAPUIORegisters (low : BitVec 5)
  /-- `REGION.Cartridge.4020`, $4020 to $403F (R73). -/
  | regionCartridge4020 (low : BitVec 5)
  /-- `REGION.Cartridge.4040`, $4040 to $407F (R73). -/
  | regionCartridge4040 (low : BitVec 6)
  /-- `REGION.Cartridge.4080`, $4080 to $40FF (R73). -/
  | regionCartridge4080 (low : BitVec 7)
  /-- `REGION.Cartridge.4100`, $4100 to $41FF (R73). -/
  | regionCartridge4100 (low : BitVec 8)
  /-- `REGION.Cartridge.4200`, $4200 to $43FF (R73). -/
  | regionCartridge4200 (low : BitVec 9)
  /-- `REGION.Cartridge.4400`, $4400 to $47FF (R73). -/
  | regionCartridge4400 (low : BitVec 10)
  /-- `REGION.Cartridge.4800`, $4800 to $4FFF (R73). -/
  | regionCartridge4800 (low : BitVec 11)
  /-- `REGION.Cartridge.5000`, $5000 to $5FFF (R73). -/
  | regionCartridge5000 (low : BitVec 12)
  /-- `REGION.Cartridge.6000`, $6000 to $7FFF (R73). -/
  | regionCartridge6000 (low : BitVec 13)
  /-- `REGION.Cartridge.8000`, $8000 to $FFFF (R73). -/
  | regionCartridge8000 (low : BitVec 15)
deriving DecidableEq, Repr

end Sys2Proof
end

