-- ==== Sys2Proof/WellFormed.lean ====
section
/-! DEFINITION. Which instructions are well formed. The one check of the spec is on INSTALL's device identifier
(spec/30_encoding.md R57, R64); every other operand has the width of its field. -/

namespace Sys2Proof

/-- Well-formedness against a pool of `ndev` devices: "A request is well-formed only if `d < NDEV`"
(spec/30_encoding.md R57); "The only ill-formed request is an `INSTALL` whose device identifier names no device" (R64). -/
def Instr.wf (ndev : Nat) : Instr → Bool
  | .read _ => true
  | .write _ _ => true
  | .install _ d => decide (d.toNat < ndev)
  | .decode _ => true
  | .regionInternalRAM _ => true
  | .regionPPURegisters _ => true
  | .regionAPUIORegisters _ => true
  | .regionCartridge4020 _ => true
  | .regionCartridge4040 _ => true
  | .regionCartridge4080 _ => true
  | .regionCartridge4100 _ => true
  | .regionCartridge4200 _ => true
  | .regionCartridge4400 _ => true
  | .regionCartridge4800 _ => true
  | .regionCartridge5000 _ => true
  | .regionCartridge6000 _ => true
  | .regionCartridge8000 _ => true

end Sys2Proof
end

