-- ==== Sys2Proof/Decode.lean ====
section
/-! DEFINITION. The codec between port words and instructions: the request word of spec/30_encoding.md R54, R55, R56, R68
and the region rows of R62; the decoder first, then the encoder, then the opcode table's match and mask. -/

namespace Sys2Proof

/-! ### Kind codes (spec/30_encoding.md R56) -/

/-- The 2-bit code of a kind. -/
def Kind.code : Kind → BitVec 2
  | .internalRAM => 0b00#2
  | .ppuRegisters => 0b01#2
  | .apuIORegisters => 0b10#2
  | .cartridge => 0b11#2

/-- The kind a 2-bit code names: "All four values of the 2-bit field are used." -/
def Kind.ofCode (c : BitVec 2) : Kind :=
  if c = 0b00#2 then .internalRAM
  else if c = 0b01#2 then .ppuRegisters
  else if c = 0b10#2 then .apuIORegisters
  else .cartridge

/-! ### The fields of the request word (spec/30_encoding.md R54) -/

/-- `REQ[31:30]`, the operation. -/
def reqOp (w : BitVec 32) : BitVec 2 := w.extractLsb' 30 2

/-- `REQ[29:28]`, the region kind of an INSTALL. -/
def reqKind (w : BitVec 32) : BitVec 2 := w.extractLsb' 28 2

/-- `REQ[23:8]`, the CPU address of a READ, WRITE or DECODE. -/
def reqAddr (w : BitVec 32) : Address := w.extractLsb' 8 16

/-- `REQ[7:0]`, the byte of a WRITE or the device identifier of an INSTALL. -/
def reqData (w : BitVec 32) : Byte := w.extractLsb' 0 8

/-- A request word from its five fields, `rsv` zero. -/
def reqWord (op kind : BitVec 2) (a : Address) (x : Byte) : BitVec 32 :=
  op ++ kind ++ 0#4 ++ a ++ x

/-! ### The decoder -/

/-- "take `op`, then take the fields that `op` uses" (spec/30_encoding.md R63, R68); total: every word spells an
operation, ignored fields are not looked at. -/
def decodeRequest (w : BitVec 32) : Instr :=
  if reqOp w = 0b00#2 then .read (reqAddr w)
  else if reqOp w = 0b01#2 then .write (reqAddr w) (reqData w)
  else if reqOp w = 0b10#2 then .install (Kind.ofCode (reqKind w)) (reqData w)
  else .decode (reqAddr w)

/-- The region row an address matches, by the row's fixed high bits (spec/30_encoding.md R62; "Exactly one row matches every
address"). -/
def decodeRegion (a : Address) : Instr :=
  if a.extractLsb' 13 3 = 0b000#3 then .regionInternalRAM (a.extractLsb' 0 13)
  else if a.extractLsb' 13 3 = 0b001#3 then .regionPPURegisters (a.extractLsb' 0 13)
  else if a.extractLsb' 5 11 = 0b01000000000#11 then .regionAPUIORegisters (a.extractLsb' 0 5)
  else if a.extractLsb' 5 11 = 0b01000000001#11 then .regionCartridge4020 (a.extractLsb' 0 5)
  else if a.extractLsb' 6 10 = 0b0100000001#10 then .regionCartridge4040 (a.extractLsb' 0 6)
  else if a.extractLsb' 7 9 = 0b010000001#9 then .regionCartridge4080 (a.extractLsb' 0 7)
  else if a.extractLsb' 8 8 = 0b01000001#8 then .regionCartridge4100 (a.extractLsb' 0 8)
  else if a.extractLsb' 9 7 = 0b0100001#7 then .regionCartridge4200 (a.extractLsb' 0 9)
  else if a.extractLsb' 10 6 = 0b010001#6 then .regionCartridge4400 (a.extractLsb' 0 10)
  else if a.extractLsb' 11 5 = 0b01001#5 then .regionCartridge4800 (a.extractLsb' 0 11)
  else if a.extractLsb' 12 4 = 0b0101#4 then .regionCartridge5000 (a.extractLsb' 0 12)
  else if a.extractLsb' 13 3 = 0b011#3 then .regionCartridge6000 (a.extractLsb' 0 13)
  else .regionCartridge8000 (a.extractLsb' 0 15)

/-- The instruction a port word spells; the port decides the format. -/
def decodePortWord : PortWord → Instr
  | .request w => decodeRequest w
  | .address a => decodeRegion a

/-- Why bits are no word of the block. -/
inductive DecodeReject where
  /-- No format of the opcode table has this many bits. -/
  | noSuchFormat (nbits : Nat)
  /-- The number does not fit in the format's bits. -/
  | tooWide (nbits : Nat)
deriving DecidableEq, Repr

/-- The port word made of the low bits of `w`: up to 16 bits an address, else a request word. -/
def PortWord.ofBits (nbits w : Nat) : PortWord :=
  if nbits ≤ 16 then .address (BitVec.ofNat 16 w) else .request (BitVec.ofNat 32 w)

/-- Raw bits to an instruction, total, rejecting by name (log entry 18). -/
def decodeBits (nbits w : Nat) : Except DecodeReject Instr :=
  if nbits = 16 ∨ nbits = 32 then
    if w < 2 ^ nbits then .ok (decodePortWord (PortWord.ofBits nbits w)) else .error (.tooWide nbits)
  else .error (.noSuchFormat nbits)

/-- The instruction the decoder reads from an opcode-table word. -/
def decodeTableWord (nbits w : Nat) : Option Instr := (decodeBits nbits w).toOption

/-! ### The addresses of a region row (spec/30_encoding.md R62) -/

/-- `$0000 & mask $E000`. -/
def addrInternalRAM (low : BitVec 13) : Address := 0b000#3 ++ low
/-- `$2000`, mask `$E000`. -/
def addrPPURegisters (low : BitVec 13) : Address := 0b001#3 ++ low
/-- `$4000`, mask `$FFE0`. -/
def addrAPUIORegisters (low : BitVec 5) : Address := 0b01000000000#11 ++ low
/-- `$4020`, mask `$FFE0`. -/
def addrCartridge4020 (low : BitVec 5) : Address := 0b01000000001#11 ++ low
/-- `$4040`, mask `$FFC0`. -/
def addrCartridge4040 (low : BitVec 6) : Address := 0b0100000001#10 ++ low
/-- `$4080`, mask `$FF80`. -/
def addrCartridge4080 (low : BitVec 7) : Address := 0b010000001#9 ++ low
/-- `$4100`, mask `$FF00`. -/
def addrCartridge4100 (low : BitVec 8) : Address := 0b01000001#8 ++ low
/-- `$4200`, mask `$FE00`. -/
def addrCartridge4200 (low : BitVec 9) : Address := 0b0100001#7 ++ low
/-- `$4400`, mask `$FC00`. -/
def addrCartridge4400 (low : BitVec 10) : Address := 0b010001#6 ++ low
/-- `$4800`, mask `$F800`. -/
def addrCartridge4800 (low : BitVec 11) : Address := 0b01001#5 ++ low
/-- `$5000`, mask `$F000`. -/
def addrCartridge5000 (low : BitVec 12) : Address := 0b0101#4 ++ low
/-- `$6000`, mask `$E000`. -/
def addrCartridge6000 (low : BitVec 13) : Address := 0b011#3 ++ low
/-- `$8000`, mask `$8000`. -/
def addrCartridge8000 (low : BitVec 15) : Address := 0b1#1 ++ low

/-! ### The encoder -/

/-- The canonical word of an instruction: spec/30_encoding.md R54 ("every ignored field zero") and R62. -/
def encode : Instr → PortWord
  | .read a => .request (reqWord 0b00#2 0#2 a 0#8)
  | .write a v => .request (reqWord 0b01#2 0#2 a v)
  | .install k d => .request (reqWord 0b10#2 k.code 0#16 d)
  | .decode a => .request (reqWord 0b11#2 0#2 a 0#8)
  | .regionInternalRAM low => .address (addrInternalRAM low)
  | .regionPPURegisters low => .address (addrPPURegisters low)
  | .regionAPUIORegisters low => .address (addrAPUIORegisters low)
  | .regionCartridge4020 low => .address (addrCartridge4020 low)
  | .regionCartridge4040 low => .address (addrCartridge4040 low)
  | .regionCartridge4080 low => .address (addrCartridge4080 low)
  | .regionCartridge4100 low => .address (addrCartridge4100 low)
  | .regionCartridge4200 low => .address (addrCartridge4200 low)
  | .regionCartridge4400 low => .address (addrCartridge4400 low)
  | .regionCartridge4800 low => .address (addrCartridge4800 low)
  | .regionCartridge5000 low => .address (addrCartridge5000 low)
  | .regionCartridge6000 low => .address (addrCartridge6000 low)
  | .regionCartridge8000 low => .address (addrCartridge8000 low)

/-- A request word is canonical when every field its operation ignores is zero (spec/30_encoding.md R54, R63). -/
def canonicalRequest (w : BitVec 32) : Bool :=
  w.extractLsb' 24 4 == 0#4 &&
    (if reqOp w = 0b00#2 then reqKind w == 0#2 && reqData w == 0#8
     else if reqOp w = 0b01#2 then reqKind w == 0#2
     else if reqOp w = 0b10#2 then reqAddr w == 0#16
     else reqKind w == 0#2 && reqData w == 0#8)

/-! ### The opcode table's rows: match and mask (spec/30_encoding.md R62, R68) -/

/-- A row of the table: an `width`-bit word belongs to it when `w & mask = pattern`. -/
structure TableRow where
  width : Nat
  pattern : Nat
  mask : Nat
deriving DecidableEq, Repr

/-- Does a row cover a word of its width? -/
def TableRow.covers (r : TableRow) (w : PortWord) : Bool :=
  r.width == w.width && (w.bits &&& r.mask) == r.pattern

/-- The table row of each instruction. -/
def Instr.row : Instr → TableRow
  | .read _ => ⟨32, 0x00000000, 0xC0000000⟩
  | .write _ _ => ⟨32, 0x40000000, 0xC0000000⟩
  | .install _ _ => ⟨32, 0x80000000, 0xC0000000⟩
  | .decode _ => ⟨32, 0xC0000000, 0xC0000000⟩
  | .regionInternalRAM _ => ⟨16, 0x0000, 0xE000⟩
  | .regionPPURegisters _ => ⟨16, 0x2000, 0xE000⟩
  | .regionAPUIORegisters _ => ⟨16, 0x4000, 0xFFE0⟩
  | .regionCartridge4020 _ => ⟨16, 0x4020, 0xFFE0⟩
  | .regionCartridge4040 _ => ⟨16, 0x4040, 0xFFC0⟩
  | .regionCartridge4080 _ => ⟨16, 0x4080, 0xFF80⟩
  | .regionCartridge4100 _ => ⟨16, 0x4100, 0xFF00⟩
  | .regionCartridge4200 _ => ⟨16, 0x4200, 0xFE00⟩
  | .regionCartridge4400 _ => ⟨16, 0x4400, 0xFC00⟩
  | .regionCartridge4800 _ => ⟨16, 0x4800, 0xF800⟩
  | .regionCartridge5000 _ => ⟨16, 0x5000, 0xF000⟩
  | .regionCartridge6000 _ => ⟨16, 0x6000, 0xE000⟩
  | .regionCartridge8000 _ => ⟨16, 0x8000, 0x8000⟩

/-- The four rows of format REQ32 and the thirteen of format A16, in the table's order. -/
def tableRows : List TableRow :=
  [ ⟨32, 0x00000000, 0xC0000000⟩, ⟨32, 0x40000000, 0xC0000000⟩, ⟨32, 0x80000000, 0xC0000000⟩,
    ⟨32, 0xC0000000, 0xC0000000⟩ ] ++
  [ ⟨16, 0x0000, 0xE000⟩, ⟨16, 0x2000, 0xE000⟩, ⟨16, 0x4000, 0xFFE0⟩, ⟨16, 0x4020, 0xFFE0⟩, ⟨16, 0x4040, 0xFFC0⟩,
    ⟨16, 0x4080, 0xFF80⟩, ⟨16, 0x4100, 0xFF00⟩, ⟨16, 0x4200, 0xFE00⟩, ⟨16, 0x4400, 0xFC00⟩, ⟨16, 0x4800, 0xF800⟩,
    ⟨16, 0x5000, 0xF000⟩, ⟨16, 0x6000, 0xE000⟩, ⟨16, 0x8000, 0x8000⟩ ]

end Sys2Proof
end

