-- ==== Sys2Proof/Machine/State.lean ====
section
/-! DEFINITION. The machine's state as plain data: the block's device table and fault latch (spec/10_state.md R13), the
states of the devices (R18), the requests not yet performed (R20), and the model's own records of what was sent. -/

namespace Sys2Proof.Machine

/-- What `decode` yields: a kind and a region-relative offset (spec/40_decode.md R69). -/
structure Target where
  kind : Kind
  offset : Offset
deriving DecidableEq, Repr

/-- The fault that is latched in `FAULT.rsp` (spec/10_state.md R17; spec/60_exceptions.md R104): its kind, its offset and,
for a DeviceFault, the device's information. -/
inductive FaultRecord where
  | configurationError (k : Kind) (o : Offset)
  | deviceFault (k : Kind) (o : Offset) (f : FaultInfo)
deriving DecidableEq, Repr

/-- A response record (spec/30_encoding.md R58). A sum type: only `byte` carries a byte read from a device, so that no
fault response can be taken for data (R58, spec/60_exceptions.md R109). -/
inductive Response where
  /-- `READ` succeeded with a byte. -/
  | byte (k : Kind) (o : Offset) (b : Byte)
  /-- `WRITE` succeeded. -/
  | written (k : Kind) (o : Offset)
  /-- `INSTALL` succeeded. -/
  | installed (k : Kind)
  /-- `DECODE`. -/
  | decoded (k : Kind) (o : Offset)
  /-- A fault, or its repetition while the block is faulted. -/
  | fault (r : FaultRecord)
deriving DecidableEq, Repr

/-- What `DevRead` yields (spec/00_scope.md R11). -/
inductive ReadResult where
  | ok (b : Byte)
  | fault (f : FaultInfo)
deriving DecidableEq, Repr

/-- What `DevWrite` yields (spec/00_scope.md R11). -/
inductive WriteResult where
  | ok
  | fault (f : FaultInfo)
deriving DecidableEq, Repr

/-- One call of a device, as the TRACE fixture lists it (spec/95_test_vectors.md section 2). -/
inductive DeviceCall where
  | read (o : Offset)
  | write (o : Offset) (v : Byte)
deriving DecidableEq, Repr

/-- Stored bytes by address, addresses strictly rising; an address that is not listed has never been written. -/
abbrev Memory := List Host.Cell

/-- A device of the pool with its state `DEVSTATE[d]` (spec/10_state.md R18; spec/20_memory.md R36). -/
inductive Device where
  /-- `RAM(n)` with the bytes written so far; `RAM($0800)` is the reference RAM (spec/20_memory.md R38;
  spec/95_test_vectors.md section 2). -/
  | ram (size : Nat) (mem : Memory)
  /-- `TRACE(c)` with its list of calls, oldest first (spec/95_test_vectors.md section 2). -/
  | trace (c : Byte) (calls : List DeviceCall)
  /-- Any other device: its internal state as a number, its behaviour `Config.externalExchange` (log entry 6). -/
  | external (st : Nat)
deriving DecidableEq, Repr

/-- The four slots of `TABLE`, one per kind; `none` is `Empty`, `some d` is `Bound(d)` (spec/10_state.md R15). -/
structure DeviceTable where
  internalRAM : Option DevId
  ppuRegisters : Option DevId
  apuIORegisters : Option DevId
  cartridge : Option DevId
deriving DecidableEq, Repr

/-- What happens next, one at a time: a word at a port; reset, which "is not a request word and has no encoding"
(spec/70_reset_and_hazards.md R114); or a device's own activity between transactions (spec/10_state.md R18; log entry 14). -/
inductive Input where
  | word (w : PortWord)
  | reset
  | activity (d : DevId)
deriving DecidableEq, Repr

/-- One exchange on a device port (spec/20_memory.md R34; spec/30_encoding.md R60): the port, the device bound there, what
it was asked and what it yielded. -/
inductive PortExchange where
  | read (port : Kind) (d : DevId) (o : Offset) (r : ReadResult)
  | write (port : Kind) (d : DevId) (o : Offset) (v : Byte) (r : WriteResult)
deriving DecidableEq, Repr

/-- The state. `table` and `fault` are the block's (spec/10_state.md R13); `devices` holds the pool and `DEVSTATE`, entry `d`
for device `d`, and its length is `NDEV` (R18, spec/00_scope.md R8; log entry 5); `inputs` is the request sequence not yet
performed (R20). `responses`, `lookups`, `portLog` (newest first; log entry 4) and `draws` (log entry 7) are the model's
own; so is `endedRuns`, one entry for each run that a reset has ended, what its latch held then, newest first
(spec/60_exceptions.md R113; log entry 19). -/
structure State where
  table : DeviceTable
  fault : Option FaultRecord
  devices : List Device
  inputs : List Input
  responses : List Response
  lookups : List Target
  portLog : List PortExchange
  endedRuns : List (Option FaultRecord)
  draws : Nat
deriving DecidableEq, Repr

/-- Why the machine stops with a fault. ConfigurationError and DeviceFault are NOT here: the spec describes their entry, so
they are next states with the latch set (log entry 9). -/
inductive Fault where
  /-- READ or WRITE finds a slot bound to a device the pool has not got: a state that spec/10_state.md R26 (d) rules out
  and no run reaches. Safe (log entry 12). -/
  | danglingSlot (k : Kind) (d : DevId)
deriving DecidableEq, Repr

/-- Why an instruction has no step. -/
inductive Refusal where
  /-- An instruction that has no meaning yet, by its mnemonic; raised by no arm of this model. Safe. -/
  | notModelled (mnemonic : String)
  /-- INSTALL with `d ≥ NDEV`: "a model refuses it at the boundary … and gives it no step" (spec/30_encoding.md R57). Raised
  by INSTALL. Safe (log entry 11). -/
  | noSuchDevice (d : DevId)
deriving DecidableEq, Repr

/-- All four slots `Empty` (spec/10_state.md R23). -/
def DeviceTable.empty : DeviceTable := ⟨none, none, none, none⟩

/-- The pool of `State.reset`: the reference RAM as device 0 and 255 external devices, so that every device identifier names
a device. DESIGN CHOICE, UNSAFE (log entry 5): the spec leaves NDEV and POOL open. -/
def resetPool : List Device := .ram 0x0800 [] :: List.replicate 255 (.external 0)

/-- The machine right after reset: "all four slots `Empty`", "`FAULT.valid` 0" (spec/10_state.md R23), nothing presented. The
other fields are log entries 2, 4, 5, 7 and 19. -/
def State.reset : State where
  table := DeviceTable.empty
  fault := none
  devices := resetPool
  inputs := []
  responses := []
  lookups := []
  portLog := []
  endedRuns := []
  draws := 0

end Sys2Proof.Machine
end

