-- ==== Sys2Proof/Machine/Ops.lean ====
section
/-! DEFINITION. The named operations over the state: the updates of its fields, stored bytes, fetching the next input, taking
a fault (spec/60_exceptions.md R104) and, in place of a return from it, reset (R106). -/

namespace Sys2Proof.Machine

/-! ### Stored bytes -/

/-- The byte last written to an address; `none` when nothing has written it. -/
def Memory.read : Memory → Nat → Option Byte
  | [], _ => none
  | (b, x) :: m, a => if a = b then some x else Memory.read m a

/-- Write one byte, keeping the addresses rising. -/
def Memory.write : Memory → Nat → Byte → Memory
  | [], a, v => [(a, v)]
  | (b, x) :: m, a, v =>
    if a < b then (a, v) :: (b, x) :: m
    else if a = b then (a, v) :: m
    else (b, x) :: Memory.write m a v

/-- The canonical form: addresses strictly rising. An unlisted address reads as no value, and no entry holds that, so
nothing more is asked. -/
abbrev Memory.wf (m : Memory) : Prop := m.Pairwise (fun c c' => c.1 < c'.1)

/-! ### The device table (spec/10_state.md R15) -/

/-- `TABLE[k]`. -/
def DeviceTable.get (t : DeviceTable) : Kind → Option DevId
  | .internalRAM => t.internalRAM
  | .ppuRegisters => t.ppuRegisters
  | .apuIORegisters => t.apuIORegisters
  | .cartridge => t.cartridge

/-- `TABLE[k] <- Bound(d)`, the other slots unchanged. -/
def DeviceTable.bind (t : DeviceTable) (k : Kind) (d : DevId) : DeviceTable :=
  match k with
  | .internalRAM => { t with internalRAM := some d }
  | .ppuRegisters => { t with ppuRegisters := some d }
  | .apuIORegisters => { t with apuIORegisters := some d }
  | .cartridge => { t with cartridge := some d }

/-! ### Updates of the state, one field each -/

/-- `NDEV`, the number of devices in the pool (spec/00_scope.md R8). -/
def State.ndev (s : State) : Nat := s.devices.length

/-- Device `d` of the pool with its state. -/
def State.device (s : State) (d : DevId) : Option Device := s.devices[d.toNat]?

/-- `TABLE[k] <- Bound(d)` (spec/42_install.md R91). -/
def State.bind (s : State) (k : Kind) (d : DevId) : State := { s with table := s.table.bind k d }

/-- `FAULT.rsp <- r;  FAULT.valid <- 1` (spec/60_exceptions.md R104). -/
def State.latch (s : State) (r : FaultRecord) : State := { s with fault := some r }

/-- `DEVSTATE[d]` becomes what the exchange made it. -/
def State.putDevice (s : State) (d : DevId) (dev : Device) : State :=
  { s with devices := s.devices.set d.toNat dev }

/-- Send a response record (spec/00_scope.md R11). -/
def State.respond (s : State) (r : Response) : State := { s with responses := r :: s.responses }

/-- The AddressDecoder's answer to an address presented to it alone (log entry 1). -/
def State.emitLookup (s : State) (t : Target) : State := { s with lookups := t :: s.lookups }

/-- Record an exchange on a device port (log entry 4). -/
def State.logExchange (s : State) (x : PortExchange) : State := { s with portLog := x :: s.portLog }

/-- Draw `n` free values (log entry 7). -/
def State.advanceDraws (s : State) (n : Nat) : State := { s with draws := s.draws + n }

/-- The requests that remain. -/
def State.setInputs (s : State) (xs : List Input) : State := { s with inputs := xs }

/-! ### Fetching -/

/-- The next thing presented to the block, and the state without it: requests are performed "in the exact order issued by the
caller" (spec/20_memory.md R47). -/
def fetchInput (s : State) : Option (Input × State) :=
  match s.inputs with
  | [] => none
  | x :: rest => some (x, s.setInputs rest)

/-- Present an input so that it is the next one fetched. -/
def presentInput (x : Input) (s : State) : State := s.setInputs (x :: s.inputs)

/-! ### Taking a fault, and reset -/

/-- `raise`: latch the record and respond with it; "Nothing else is saved and nothing else changes"
(spec/60_exceptions.md R104). Called only while the latch is clear (R103). -/
def takeFault (r : FaultRecord) (s : State) : State := (s.latch r).respond (.fault r)

/-- The run that was going on is over: what its latch holds is kept, so that a fault mark cleared for the next run is not lost
to the one it refutes (spec/60_exceptions.md R113; log entry 19). -/
def State.endRun (s : State) : State := { s with endedRuns := s.fault :: s.endedRuns }

/-- Reset: "all four slots `Empty`, `FAULT.valid = 0`" and no device touched (spec/70_reset_and_hazards.md R114, R115). There
is no return from a fault: "No operation clears `FAULT`; only reset does" (spec/60_exceptions.md R106).
Reset ends the run and "starts a new run" (R113). -/
def resetBlock (s : State) : State := { s.endRun with table := DeviceTable.empty, fault := none }

/-- The guard of READ, WRITE and INSTALL: while faulted "changes nothing, and responds with `FAULT.rsp`"
(spec/41_access.md R87; spec/42_install.md R97; log entry 10). -/
def unlessFaulted (s : State) (go : Host.Outcome State Fault Refusal) : Host.Outcome State Fault Refusal :=
  match s.fault with
  | some r => .next (s.respond (.fault r))
  | none => go

end Sys2Proof.Machine
end

