-- ==== Sys2Proof/Machine/Operands.lean ====
section
/-! DEFINITION. The one operand form, the absolute 16-bit address, and what is computed from it: kind and offset
(spec/40_decode.md R69 to R73); and the exchange words of the device ports (spec/30_encoding.md R60). -/

namespace Sys2Proof.Machine

/-! ### decode -/

/-- `decode(a)`, written as spec/40_decode.md R69 writes it. -/
def decodeAddress (a : Address) : Target :=
  if a ≤ 0x1FFF#16 then ⟨.internalRAM, a % 0x0800#16⟩
  else if a ≤ 0x3FFF#16 then ⟨.ppuRegisters, a % 0x0008#16⟩
  else if a ≤ 0x401F#16 then ⟨.apuIORegisters, a - 0x4000#16⟩
  else ⟨.cartridge, a - 0x4020#16⟩

/-! ### The offset column of the region table (spec/30_encoding.md R62) -/

/-- `a & $07FF`. -/
def offsetInternalRAM (a : Address) : Offset := a &&& 0x07FF#16

/-- `a & $0007`. -/
def offsetPPURegisters (a : Address) : Offset := a &&& 0x0007#16

/-- `a & $001F`. -/
def offsetAPUIORegisters (a : Address) : Offset := a &&& 0x001F#16

/-- `a − $4020`. -/
def offsetCartridge (a : Address) : Offset := a - 0x4020#16

/-! ### Device exchange words -/

/-- `DREQ` of a `read(offset)`: `sel` = 1, `rnw` = 1, `wdata` = 0 (spec/30_encoding.md R60). -/
def dreqRead (o : Offset) : BitVec 26 := 1#1 ++ 1#1 ++ o ++ 0#8

/-- `DREQ` of a `write(offset, value)`: `sel` = 1, `rnw` = 0, `wdata` the value (R60). -/
def dreqWrite (o : Offset) (v : Byte) : BitVec 26 := 1#1 ++ 0#1 ++ o ++ v

/-- `DRSP[8]`, 1 when the device reports a DeviceFault (R60). -/
def drspFault (w : BitVec 9) : BitVec 1 := w.extractLsb' 8 1

/-- `DRSP[7:0]` (R60). -/
def drspByte (w : BitVec 9) : Byte := w.extractLsb' 0 8

/-- `DevRead` "yields `ok(DRSP.byte)` when `DRSP.fault = 0`, `fault(DRSP.byte)` when it is 1" (R60). -/
def readResultOf (w : BitVec 9) : ReadResult :=
  if drspFault w = 0#1 then .ok (drspByte w) else .fault (drspByte w)

/-- `DevWrite` "yields `ok` or `fault(DRSP.byte)`" (R60). -/
def writeResultOf (w : BitVec 9) : WriteResult :=
  if drspFault w = 0#1 then .ok else .fault (drspByte w)

/-- The port an exchange is on. -/
def PortExchange.port : PortExchange → Kind
  | .read k _ _ _ => k
  | .write k _ _ _ _ => k

/-- The device an exchange is with. -/
def PortExchange.device : PortExchange → DevId
  | .read _ d _ _ => d
  | .write _ d _ _ _ => d

/-- The `DREQ` word the block drives on the exchange's port (R60). -/
def PortExchange.dreq : PortExchange → BitVec 26
  | .read _ _ o _ => dreqRead o
  | .write _ _ o v _ => dreqWrite o v

/-- `DREQ.sel` on each of the four ports: "1 for the one port taking part in this exchange, 0 on the other three" (R60). -/
def PortExchange.sel (x : PortExchange) (k : Kind) : Bool := k == x.port

end Sys2Proof.Machine
end

