-- ==== Sys2Proof/Machine/Devices.lean ====
section
/-! DEFINITION. What the devices of the pool do in one exchange (spec/20_memory.md R36 to R38; spec/95_test_vectors.md section
2), and the two device primitives `DevRead` and `DevWrite` of spec/00_scope.md R11. -/

namespace Sys2Proof.Machine

/-- What byte `o` of RAM device `d` reads as: the last byte written there, before the first write `RAM_INIT`
(spec/20_memory.md R38; log entry 8). -/
def ramByte (d : DevId) (mem : Memory) (o : Offset) : Byte :=
  (Memory.read mem o.toNat).getD (Config.ramInit d o)

/-- The fault information of the `RAM(n)` fixture past its end (spec/95_test_vectors.md section 2). -/
def ramPastEnd : FaultInfo := 0x01#8

/-- One read exchange with device `d`: its new state and what it yields. -/
def deviceRead (d : DevId) (draw : Nat) (o : Offset) : Device → Device × ReadResult
  | .ram size mem => (.ram size mem, if o.toNat < size then .ok (ramByte d mem o) else .fault ramPastEnd)
  | .trace c calls => (.trace c (calls ++ [.read o]), .ok c)
  | .external st =>
    (.external (Config.externalExchange d st (dreqRead o) draw).1,
      readResultOf (Config.externalExchange d st (dreqRead o) draw).2)

/-- One write exchange with device `d`: its new state and what it yields. -/
def deviceWrite (d : DevId) (draw : Nat) (o : Offset) (v : Byte) : Device → Device × WriteResult
  | .ram size mem =>
    if o.toNat < size then (.ram size (Memory.write mem o.toNat v), .ok) else (.ram size mem, .fault ramPastEnd)
  | .trace c calls => (.trace c (calls ++ [.write o v]), .ok)
  | .external st =>
    (.external (Config.externalExchange d st (dreqWrite o v) draw).1,
      writeResultOf (Config.externalExchange d st (dreqWrite o v) draw).2)

/-- How many free values an exchange with a device uses up (log entry 7). -/
def drawsUsed : Device → Nat
  | .ram _ _ => 0
  | .trace _ _ => 0
  | .external _ => 1

/-- `DevRead(d, o)` on the port of kind `k`: one exchange, which changes the state of device `d` and of nothing else
(spec/00_scope.md R11; spec/41_access.md R84). -/
def devRead (k : Kind) (d : DevId) (dev : Device) (o : Offset) (s : State) : State × ReadResult :=
  (((s.putDevice d (deviceRead d s.draws o dev).1).advanceDraws (drawsUsed dev)).logExchange
      (.read k d o (deviceRead d s.draws o dev).2),
    (deviceRead d s.draws o dev).2)

/-- `DevWrite(d, o, v)` on the port of kind `k` (spec/00_scope.md R11; spec/41_access.md R84). -/
def devWrite (k : Kind) (d : DevId) (dev : Device) (o : Offset) (v : Byte) (s : State) : State × WriteResult :=
  (((s.putDevice d (deviceWrite d s.draws o v dev).1).advanceDraws (drawsUsed dev)).logExchange
      (.write k d o v (deviceWrite d s.draws o v dev).2),
    (deviceWrite d s.draws o v dev).2)

/-- Device `d` acts on its own between two transactions (spec/10_state.md R18; log entry 14): an external device may go to
another internal state. A RAM changes "only on writes" (spec/91_not_in_source.md N9) and a TRACE only when it is called. -/
def deviceActivity (d : DevId) (s : State) : State :=
  match s.device d with
  | some (.external st) => (s.putDevice d (.external (Config.externalActivity d st s.draws))).advanceDraws 1
  | _ => s

/-- The model's look at one stored byte, with no exchange: what byte `o` of device `d` reads as, when `d` is a RAM that has
it. Used to state frames; no operation of the block calls it. -/
def storedByte (d : DevId) (o : Offset) (s : State) : Option Byte :=
  match s.device d with
  | some (.ram size mem) => if o.toNat < size then some (ramByte d mem o) else none
  | _ => none

end Sys2Proof.Machine
end

