-- ==== Sys2Proof/Machine/Flags.lean ====
section
/-! DEFINITION. The block has no flags or condition codes (spec/10_state.md R19). What a requester tests instead is the
status of the response; here are the status codes (spec/30_encoding.md R59) and the response words (R58). -/

namespace Sys2Proof.Machine

/-- The status codes the block produces; 11 is "never produced" and has no constructor (R59, U9). -/
inductive Status where
  | ok
  | configurationError
  | deviceFault
deriving DecidableEq, Repr

/-- The 2-bit code of a status (R59). -/
def Status.code : Status → BitVec 2
  | .ok => 0b00#2
  | .configurationError => 0b01#2
  | .deviceFault => 0b10#2

/-- `{status, kind, zero, offset, data}` (R58). -/
def rspWord (st : Status) (k : Kind) (o : Offset) (x : Byte) : BitVec 32 :=
  st.code ++ k.code ++ 0#4 ++ o ++ x

/-- The status of a latched fault. -/
def FaultRecord.status : FaultRecord → Status
  | .configurationError _ _ => .configurationError
  | .deviceFault _ _ _ => .deviceFault

/-- The kind of the access that faulted. -/
def FaultRecord.kind : FaultRecord → Kind
  | .configurationError k _ => k
  | .deviceFault k _ _ => k

/-- The offset of the access that faulted. -/
def FaultRecord.offset : FaultRecord → Offset
  | .configurationError _ o => o
  | .deviceFault _ o _ => o

/-- `FAULT.rsp` as the word of R58: data 0 for a ConfigurationError, the information `f` for a DeviceFault
(spec/60_exceptions.md R104). -/
def FaultRecord.word : FaultRecord → BitVec 32
  | .configurationError k o => rspWord .configurationError k o 0#8
  | .deviceFault k o f => rspWord .deviceFault k o f

/-- The status of a response. -/
def Response.status : Response → Status
  | .byte _ _ _ => .ok
  | .written _ _ => .ok
  | .installed _ => .ok
  | .decoded _ _ => .ok
  | .fault r => r.status

/-- The response word `RSP[31:0]` (R58). -/
def Response.word : Response → BitVec 32
  | .byte k o b => rspWord .ok k o b
  | .written k o => rspWord .ok k o 0#8
  | .installed k => rspWord .ok k 0#16 0#8
  | .decoded k o => rspWord .ok k o 0#8
  | .fault r => r.word

end Sys2Proof.Machine
end

