-- ==== Sys2Proof/Machine/Access.lean ====
section
/-! DEFINITION. READ and WRITE (spec/41_access.md R81 to R87). -/

namespace Sys2Proof.Machine

/-- The common path of READ and WRITE: decode, then the slot of the decoded kind and no other, then the device
(spec/41_access.md R83; spec/60_exceptions.md R103). An empty slot raises ConfigurationError (R99). -/
def withDevice (a : Address) (s : State) (go : Target → DevId → Device → Host.Outcome State Fault Refusal) :
    Host.Outcome State Fault Refusal :=
  match s.table.get (decodeAddress a).kind with
  | none => .next (takeFault (.configurationError (decodeAddress a).kind (decodeAddress a).offset) s)
  | some d =>
    match s.device d with
    | none => .fault (.danglingSlot (decodeAddress a).kind d)
    | some dev => go (decodeAddress a) d dev

/-- The end of a READ: `ok(b)` responds with the byte unchanged, `fault(f)` raises DeviceFault (R81, R85). -/
def finishRead (t : Target) : State × ReadResult → State
  | (s, .ok b) => s.respond (.byte t.kind t.offset b)
  | (s, .fault f) => takeFault (.deviceFault t.kind t.offset f) s

/-- The end of a WRITE (R82). -/
def finishWrite (t : Target) : State × WriteResult → State
  | (s, .ok) => s.respond (.written t.kind t.offset)
  | (s, .fault f) => takeFault (.deviceFault t.kind t.offset f) s

/-- `READ a` (spec/41_access.md R81). -/
def execRead (a : Address) (s : State) : Host.Outcome State Fault Refusal :=
  unlessFaulted s (withDevice a s fun t d dev => .next (finishRead t (devRead t.kind d dev t.offset s)))

/-- `WRITE a, v` (spec/41_access.md R82). -/
def execWrite (a : Address) (v : Byte) (s : State) : Host.Outcome State Fault Refusal :=
  unlessFaulted s (withDevice a s fun t d dev => .next (finishWrite t (devWrite t.kind d dev t.offset v s)))

end Sys2Proof.Machine
end

