-- ==== Sys2Proof/Machine/AddressDecoder.lean ====
section
/-! DEFINITION. DECODE (spec/40_decode.md R69, R80) and the thirteen region rows of the AddressDecoder
(spec/30_encoding.md R62; spec/40_decode.md R70 to R73; log entry 1). -/

namespace Sys2Proof.Machine

/-- `DECODE a`: performed "in every state of the block", faulted or not (R69, R80). -/
def execDecode (a : Address) (s : State) : Host.Outcome State Fault Refusal :=
  .next (s.respond (.decoded (decodeAddress a).kind (decodeAddress a).offset))

/-- The AddressDecoder alone yields a kind and an offset; pure, no state of the block read or written (R75). -/
def lookUp (k : Kind) (o : Offset) (s : State) : Host.Outcome State Fault Refusal :=
  .next (s.emitLookup ⟨k, o⟩)

/-- `REGION.InternalRAM` (R70). -/
def execRegionInternalRAM (low : BitVec 13) (s : State) : Host.Outcome State Fault Refusal :=
  lookUp .internalRAM (offsetInternalRAM (addrInternalRAM low)) s

/-- `REGION.PPURegisters` (R71). -/
def execRegionPPURegisters (low : BitVec 13) (s : State) : Host.Outcome State Fault Refusal :=
  lookUp .ppuRegisters (offsetPPURegisters (addrPPURegisters low)) s

/-- `REGION.APUIORegisters` (R72). -/
def execRegionAPUIORegisters (low : BitVec 5) (s : State) : Host.Outcome State Fault Refusal :=
  lookUp .apuIORegisters (offsetAPUIORegisters (addrAPUIORegisters low)) s

/-- `REGION.Cartridge.4020` (R73). -/
def execRegionCartridge4020 (low : BitVec 5) (s : State) : Host.Outcome State Fault Refusal :=
  lookUp .cartridge (offsetCartridge (addrCartridge4020 low)) s

/-- `REGION.Cartridge.4040` (R73). -/
def execRegionCartridge4040 (low : BitVec 6) (s : State) : Host.Outcome State Fault Refusal :=
  lookUp .cartridge (offsetCartridge (addrCartridge4040 low)) s

/-- `REGION.Cartridge.4080` (R73). -/
def execRegionCartridge4080 (low : BitVec 7) (s : State) : Host.Outcome State Fault Refusal :=
  lookUp .cartridge (offsetCartridge (addrCartridge4080 low)) s

/-- `REGION.Cartridge.4100` (R73). -/
def execRegionCartridge4100 (low : BitVec 8) (s : State) : Host.Outcome State Fault Refusal :=
  lookUp .cartridge (offsetCartridge (addrCartridge4100 low)) s

/-- `REGION.Cartridge.4200` (R73). -/
def execRegionCartridge4200 (low : BitVec 9) (s : State) : Host.Outcome State Fault Refusal :=
  lookUp .cartridge (offsetCartridge (addrCartridge4200 low)) s

/-- `REGION.Cartridge.4400` (R73). -/
def execRegionCartridge4400 (low : BitVec 10) (s : State) : Host.Outcome State Fault Refusal :=
  lookUp .cartridge (offsetCartridge (addrCartridge4400 low)) s

/-- `REGION.Cartridge.4800` (R73). -/
def execRegionCartridge4800 (low : BitVec 11) (s : State) : Host.Outcome State Fault Refusal :=
  lookUp .cartridge (offsetCartridge (addrCartridge4800 low)) s

/-- `REGION.Cartridge.5000` (R73). -/
def execRegionCartridge5000 (low : BitVec 12) (s : State) : Host.Outcome State Fault Refusal :=
  lookUp .cartridge (offsetCartridge (addrCartridge5000 low)) s

/-- `REGION.Cartridge.6000` (R73). -/
def execRegionCartridge6000 (low : BitVec 13) (s : State) : Host.Outcome State Fault Refusal :=
  lookUp .cartridge (offsetCartridge (addrCartridge6000 low)) s

/-- `REGION.Cartridge.8000` (R73). -/
def execRegionCartridge8000 (low : BitVec 15) (s : State) : Host.Outcome State Fault Refusal :=
  lookUp .cartridge (offsetCartridge (addrCartridge8000 low)) s

end Sys2Proof.Machine
end

