-- ==== Sys2Proof/Machine/Install.lean ====
section
/-! DEFINITION. INSTALL (spec/42_install.md R91 to R97). -/

namespace Sys2Proof.Machine

/-- `INSTALL k, d` (spec/42_install.md R91): bind, respond, no exchange. `d ≥ NDEV` is refused at the boundary, whatever the
latch holds (spec/30_encoding.md R57; spec/95_test_vectors.md section 3.3; log entry 11). -/
def execInstall (k : Kind) (d : DevId) (s : State) : Host.Outcome State Fault Refusal :=
  if d.toNat < s.ndev then unlessFaulted s (.next ((s.bind k d).respond (.installed k)))
  else .refused (.noSuchDevice d)

end Sys2Proof.Machine
end

