-- ==== Sys2Proof/Machine/Dispatch.lean ====
section
/-! DEFINITION. One arm per constructor of Instr, in the opcode table's order. -/

namespace Sys2Proof.Machine

def exec (i : Instr) (s : State) : Host.Outcome State Fault Refusal :=
  match i with
  | .read a => Sys2Proof.Machine.execRead a s
  | .write a v => Sys2Proof.Machine.execWrite a v s
  | .install k d => Sys2Proof.Machine.execInstall k d s
  | .decode a => Sys2Proof.Machine.execDecode a s
  | .regionInternalRAM low => Sys2Proof.Machine.execRegionInternalRAM low s
  | .regionPPURegisters low => Sys2Proof.Machine.execRegionPPURegisters low s
  | .regionAPUIORegisters low => Sys2Proof.Machine.execRegionAPUIORegisters low s
  | .regionCartridge4020 low => Sys2Proof.Machine.execRegionCartridge4020 low s
  | .regionCartridge4040 low => Sys2Proof.Machine.execRegionCartridge4040 low s
  | .regionCartridge4080 low => Sys2Proof.Machine.execRegionCartridge4080 low s
  | .regionCartridge4100 low => Sys2Proof.Machine.execRegionCartridge4100 low s
  | .regionCartridge4200 low => Sys2Proof.Machine.execRegionCartridge4200 low s
  | .regionCartridge4400 low => Sys2Proof.Machine.execRegionCartridge4400 low s
  | .regionCartridge4800 low => Sys2Proof.Machine.execRegionCartridge4800 low s
  | .regionCartridge5000 low => Sys2Proof.Machine.execRegionCartridge5000 low s
  | .regionCartridge6000 low => Sys2Proof.Machine.execRegionCartridge6000 low s
  | .regionCartridge8000 low => Sys2Proof.Machine.execRegionCartridge8000 low s

end Sys2Proof.Machine
end

