-- ==== Sys2Proof/Machine/Step.lean ====
section
/-! DEFINITION. One step: the next input of the sequence, performed to completion (spec/20_memory.md R47). -/

namespace Sys2Proof.Machine

/-- Fetch the next input and perform it: a word is decoded and executed, a reset resets the block, an
activity is the device's own. With nothing presented the
block does nothing (log entry 3). -/
def step (s : State) : Host.Outcome State Fault Refusal :=
  match fetchInput s with
  | none => .next s
  | some (.reset, s') => .next (resetBlock s')
  | some (.activity d, s') => .next (deviceActivity d s')
  | some (.word w, s') => exec (decodePortWord w) s'

/-- The state with an opcode-table word presented as the next input: 16-bit words at the AddressDecoder's port, 32-bit words
at the request port (log entry 2). -/
def State.withFetchWord (s : State) (nbits w : Nat) : State :=
  presentInput (.word (PortWord.ofBits nbits w)) s

end Sys2Proof.Machine
end

