-- ==== Sys2Proof/Safety.lean ====
section
/-! DEFINITION. What counts as a safe run and a legal state, in the terms claims use (spec/60_exceptions.md R113;
spec/10_state.md R26; spec/70_reset_and_hazards.md R116, R117). -/

namespace Sys2Proof.Machine

/-- "No fault recorded": the premise of every claim about a launch state (spec/60_exceptions.md R113). -/
def State.notFaulted (s : State) : Prop := s.fault = none

/-- A run reached a fault: the one going on since the last reset, or one that a reset has ended. A faulted state "refutes any
claim about a run that reaches it" and reset does not undo that, it "starts a new run" (spec/60_exceptions.md R113). -/
def State.refuted (s : State) : Prop := s.fault ≠ none ∨ ∃ r, some r ∈ s.endedRuns

/-- Every run up to here ended well: no more requests come, and no run reached a fault, whether or not a reset followed. "The
state with `FAULT.valid = 1` is never final" (spec/60_exceptions.md R113; spec/70_reset_and_hazards.md R116). -/
def State.endedWell (s : State) : Prop := s.inputs = [] ∧ ¬ s.refuted

/-- The run since the last reset, taken alone, "ended *well* if `FAULT.valid = 0`" (spec/70_reset_and_hazards.md R116). It says
nothing of the runs before that reset. -/
def State.lastRunEndedWell (s : State) : Prop := s.inputs = [] ∧ s.fault = none

/-- The host's duty before the first access: a device installed for every kind (spec/70_reset_and_hazards.md R117). -/
def State.allBound (s : State) : Prop := ∀ k, s.table.get k ≠ none

/-- `TABLE[k].dev < NDEV` whenever the slot is bound (spec/10_state.md R26 (d)). -/
def State.slotsNameDevices (s : State) : Prop := ∀ k d, s.table.get k = some d → d.toNat < s.ndev

/-- A RAM holds its bytes in canonical form and none past its end. -/
def Device.wf : Device → Prop
  | .ram size mem => mem.wf ∧ ∀ c ∈ mem, c.1 < size
  | .trace _ _ => True
  | .external _ => True

/-- The sort of a device, without its state: what `POOL` fixes (spec/00_scope.md R8). -/
inductive DeviceSort where
  | ram (size : Nat)
  | trace (c : Byte)
  | external
deriving DecidableEq, Repr

/-- The sort of a device. -/
def Device.sort : Device → DeviceSort
  | .ram size _ => .ram size
  | .trace c _ => .trace c
  | .external _ => .external

/-- The pool as the host chose it: no step changes it. -/
def State.pool (s : State) : List DeviceSort := s.devices.map Device.sort

/-- What a latched fault record says of the table it was raised against: the offset is one of its kind's (spec/20_memory.md
R35), a ConfigurationError names an empty slot and a DeviceFault a bound one (spec/60_exceptions.md R99, R103). -/
def FaultRecord.agrees (r : FaultRecord) (t : DeviceTable) : Prop :=
  r.offset.toNat < Config.storageSize r.kind ∧
    match r with
    | .configurationError k _ => t.get k = none
    | .deviceFault k _ _ => t.get k ≠ none

/-- The legal states: between 1 and 256 devices (spec/00_scope.md R8), slots that name devices, RAMs in canonical form, a
fault record that agrees with the table. -/
structure State.Inv (s : State) : Prop where
  ndev_pos : 1 ≤ s.ndev
  ndev_le : s.ndev ≤ Config.maxDevices
  slots : s.slotsNameDevices
  devices : ∀ dev ∈ s.devices, dev.wf
  latch : ∀ r, s.fault = some r → r.agrees s.table

end Sys2Proof.Machine
end

