-- ==== Sys2Proof/Certificates/Slice0/Obligations.lean ====
section
/-! DEFINITION. The statements for the provers, from the numbered rules of spec/. -/

open Sys2Proof Sys2Proof.Machine

/-! ### Encoding -/

/-- Decode and encode agree on every instruction of the table, with every operand at every value. -/
def Obligations.DecodingTheEncodingGivesTheInstruction : Prop :=
  ∀ i : Instr, decodePortWord (encode i) = i

/-- R63 (the spec's decision D13): the fields an operation does not use are ignored, and the canonical word of an operation,
the one with every ignored field zero, is the one the encoder writes. -/
def Obligations.IgnoredFieldsAreIgnored : Prop :=
  (∀ (kind : BitVec 2) (rsv : BitVec 4) (a : Address) (x : Byte),
    decodeRequest (0b00#2 ++ kind ++ rsv ++ a ++ x) = .read a ∧
    decodeRequest (0b01#2 ++ kind ++ rsv ++ a ++ x) = .write a x ∧
    decodeRequest (0b10#2 ++ kind ++ rsv ++ a ++ x) = .install (Kind.ofCode kind) x ∧
    decodeRequest (0b11#2 ++ kind ++ rsv ++ a ++ x) = .decode a) ∧
  (∀ w : BitVec 32, canonicalRequest w = true ↔ encode (decodeRequest w) = .request w)

/-- The operation map of 30_encoding.md section 7, in arithmetic on the word's number instead of fields of bits; and the
kind codes of section 1. -/
def Obligations.RequestWordSpellsItsOperation : Prop :=
  (∀ w : BitVec 32,
    (w.toNat / 2 ^ 30 = 0 → decodeRequest w = .read (BitVec.ofNat 16 (w.toNat / 2 ^ 8))) ∧
    (w.toNat / 2 ^ 30 = 1 →
      decodeRequest w = .write (BitVec.ofNat 16 (w.toNat / 2 ^ 8)) (BitVec.ofNat 8 w.toNat)) ∧
    (w.toNat / 2 ^ 30 = 2 →
      ∃ k, decodeRequest w = .install k (BitVec.ofNat 8 w.toNat) ∧ k.code.toNat = w.toNat / 2 ^ 28 % 4) ∧
    (w.toNat / 2 ^ 30 = 3 → decodeRequest w = .decode (BitVec.ofNat 16 (w.toNat / 2 ^ 8)))) ∧
  Kind.internalRAM.code.toNat = 0 ∧ Kind.ppuRegisters.code.toNat = 1 ∧ Kind.apuIORegisters.code.toNat = 2 ∧
  Kind.cartridge.code.toNat = 3

/-- Exactly one row of the opcode table covers a word of either format, by match and mask, and it is the row of the
instruction the decoder reads (30_encoding.md sections 3 and 7). -/
def Obligations.EachWordIsInExactlyOneTableRow : Prop :=
  ∀ x : PortWord, tableRows.filter (fun r => r.covers x) = [(decodePortWord x).row]

/-- A few words written out from the encodings and from 95_test_vectors.md decode to what they stand for. -/
def Obligations.WrittenOutWordsDecode : Prop :=
  decodeTableWord 32 0x00080000 = some (.read 0x0800#16) ∧
  decodeTableWord 32 0x401FFFFF = some (.write 0x1FFF#16 0xFF#8) ∧
  decodeTableWord 32 0xB0000003 = some (.install .cartridge 0x03#8) ∧
  decodeTableWord 32 0xC0401F00 = some (.decode 0x401F#16) ∧
  decodeTableWord 32 0xFF401F55 = some (.decode 0x401F#16) ∧
  decodeTableWord 16 0x1FFF = some (.regionInternalRAM 0x1FFF#13) ∧
  decodeTableWord 16 0x401F = some (.regionAPUIORegisters 0x1F#5) ∧
  decodeTableWord 16 0x4020 = some (.regionCartridge4020 0x00#5) ∧
  decodeTableWord 16 0xFFFF = some (.regionCartridge8000 0x7FFF#15)

/-! ### The address decoder -/

/-- R70. -/
def Obligations.InternalRamRegionRule : Prop :=
  (∀ a : Address, a.toNat ≤ 0x1FFF →
    decodeAddress a = ⟨.internalRAM, BitVec.ofNat 16 (a.toNat % 0x0800)⟩ ∧
    (decodeAddress a).offset.toNat ≤ 0x07FF) ∧
  (∀ band o : Nat, band < 4 → o < 0x0800 →
    decodeAddress (BitVec.ofNat 16 (band * 0x0800 + o)) = ⟨.internalRAM, BitVec.ofNat 16 o⟩) ∧
  decodeAddress 0x07FF#16 = ⟨.internalRAM, 0x07FF#16⟩ ∧ decodeAddress 0x0800#16 = ⟨.internalRAM, 0x0000#16⟩ ∧
  decodeAddress 0x0FFF#16 = ⟨.internalRAM, 0x07FF#16⟩ ∧ decodeAddress 0x1000#16 = ⟨.internalRAM, 0x0000#16⟩ ∧
  decodeAddress 0x17FF#16 = ⟨.internalRAM, 0x07FF#16⟩ ∧ decodeAddress 0x1800#16 = ⟨.internalRAM, 0x0000#16⟩ ∧
  decodeAddress 0x1FFF#16 = ⟨.internalRAM, 0x07FF#16⟩ ∧ (decodeAddress 0x2000#16).kind ≠ .internalRAM ∧
  (∀ s : State, exec (.decode 0x1FFF#16) s =
    .next { s with responses := .decoded .internalRAM 0x07FF#16 :: s.responses })

/-- R71. -/
def Obligations.PpuRegistersRegionRule : Prop :=
  (∀ a : Address, 0x2000 ≤ a.toNat → a.toNat ≤ 0x3FFF →
    decodeAddress a = ⟨.ppuRegisters, BitVec.ofNat 16 (a.toNat % 0x0008)⟩ ∧
    (decodeAddress a).offset.toNat ≤ 7 ∧ a.toNat % 8 = (a.toNat - 0x2000) % 8) ∧
  (∀ band o : Nat, band < 1024 → o < 8 →
    decodeAddress (BitVec.ofNat 16 (0x2000 + 8 * band + o)) = ⟨.ppuRegisters, BitVec.ofNat 16 o⟩) ∧
  decodeAddress 0x2000#16 = ⟨.ppuRegisters, 0#16⟩ ∧ decodeAddress 0x2007#16 = ⟨.ppuRegisters, 7#16⟩ ∧
  decodeAddress 0x2008#16 = ⟨.ppuRegisters, 0#16⟩ ∧ decodeAddress 0x3FF8#16 = ⟨.ppuRegisters, 0#16⟩ ∧
  decodeAddress 0x3FFF#16 = ⟨.ppuRegisters, 7#16⟩ ∧ (decodeAddress 0x1FFF#16).kind = .internalRAM ∧
  (decodeAddress 0x4000#16).kind = .apuIORegisters ∧
  (∀ s : State, exec (.decode 0x2008#16) s =
    .next { s with responses := .decoded .ppuRegisters 0x0000#16 :: s.responses })

/-- R72. -/
def Obligations.ApuIoRegistersRegionRule : Prop :=
  (∀ a : Address, 0x4000 ≤ a.toNat → a.toNat ≤ 0x401F →
    decodeAddress a = ⟨.apuIORegisters, BitVec.ofNat 16 (a.toNat - 0x4000)⟩ ∧
    (decodeAddress a).offset.toNat ≤ 0x001F) ∧
  (∀ a a' : Address, (decodeAddress a).kind = .apuIORegisters → decodeAddress a = decodeAddress a' → a = a') ∧
  decodeAddress 0x4000#16 = ⟨.apuIORegisters, 0x0000#16⟩ ∧ decodeAddress 0x401F#16 = ⟨.apuIORegisters, 0x001F#16⟩ ∧
  (decodeAddress 0x4020#16).kind = .cartridge ∧
  (∀ s : State, exec (.decode 0x4014#16) s =
    .next { s with responses := .decoded .apuIORegisters 0x0014#16 :: s.responses })

/-- R73. -/
def Obligations.CartridgeRegionRule : Prop :=
  (∀ a : Address, 0x4020 ≤ a.toNat →
    decodeAddress a = ⟨.cartridge, BitVec.ofNat 16 (a.toNat - 0x4020)⟩ ∧
    (decodeAddress a).offset.toNat ≤ 0xBFDF) ∧
  (∀ a a' : Address, (decodeAddress a).kind = .cartridge → decodeAddress a = decodeAddress a' → a = a') ∧
  decodeAddress 0x4020#16 = ⟨.cartridge, 0x0000#16⟩ ∧ decodeAddress 0x40FF#16 = ⟨.cartridge, 0x00DF#16⟩ ∧
  decodeAddress 0x4100#16 = ⟨.cartridge, 0x00E0#16⟩ ∧ decodeAddress 0x6000#16 = ⟨.cartridge, 0x1FE0#16⟩ ∧
  decodeAddress 0x8000#16 = ⟨.cartridge, 0x3FE0#16⟩ ∧ decodeAddress 0xFFFF#16 = ⟨.cartridge, 0xBFDF#16⟩ ∧
  (∀ s : State, exec (.decode 0x8000#16) s =
    .next { s with responses := .decoded .cartridge 0x3FE0#16 :: s.responses })

/-- R29, R74: every address lies in exactly one region of the constant AddressSpace, and `decode` gives that region's kind
and the offset that its base and mirror period fix; the last region is everything from $4020 on; no address is refused. -/
def Obligations.RegionsCoverTheAddressSpace : Prop :=
  ∀ a : Address,
    (∃ r : Region,
      Config.addressSpace.filter (fun r => decide (r.base ≤ a.toNat ∧ a.toNat < r.base + r.size)) = [r] ∧
      (decodeAddress a).kind = r.kind ∧
      (decodeAddress a).offset.toNat =
        match r.mirrorPeriod with
        | some p => (a.toNat - r.base) % p
        | none => a.toNat - r.base) ∧
    ((decodeAddress a).kind = .cartridge ↔ 0x4020 ≤ a.toNat) ∧
    ∀ s : State, ∃ t, exec (.decode a) s = .next t ∧ t.fault = s.fault

/-- The wiring of 40_decode.md section 3, an inference of the spec: by the high address bits, gives what the ranges give. -/
def Obligations.WiringGivesTheRegionRules : Prop :=
  ∀ a : Address,
    (a.extractLsb' 13 3 = 0b000#3 →
      decodeAddress a = ⟨.internalRAM, (a.extractLsb' 0 11).setWidth 16⟩ ∧
      (a.extractLsb' 0 11).setWidth 16 = a &&& 0x07FF#16) ∧
    (a.extractLsb' 13 3 = 0b001#3 →
      decodeAddress a = ⟨.ppuRegisters, (a.extractLsb' 0 3).setWidth 16⟩ ∧
      (a.extractLsb' 0 3).setWidth 16 = a &&& 0x0007#16) ∧
    (a.extractLsb' 5 11 = 0b01000000000#11 →
      decodeAddress a = ⟨.apuIORegisters, (a.extractLsb' 0 5).setWidth 16⟩ ∧
      (a.extractLsb' 0 5).setWidth 16 = a &&& 0x001F#16) ∧
    (a.extractLsb' 13 3 ≠ 0b000#3 → a.extractLsb' 13 3 ≠ 0b001#3 → a.extractLsb' 5 11 ≠ 0b01000000000#11 →
      decodeAddress a = ⟨.cartridge, a - 0x4020#16⟩ ∧ (a - 0x4020#16).toNat = (a.toNat + 0xBFE0) % 0x10000)

/-- The offsets of a kind: `decode` never leaves the kind's range, and reaches all of it (20_memory.md section 2). -/
def Obligations.OffsetsFillTheKindsRange : Prop :=
  (∀ a : Address, (decodeAddress a).offset.toNat < Config.storageSize (decodeAddress a).kind) ∧
  (∀ (k : Kind) (o : Offset), o.toNat < Config.storageSize k → ∃ a : Address, decodeAddress a = ⟨k, o⟩)

/-- Which addresses are aliases (40_decode.md section 3, an inference of the spec). -/
def Obligations.AliasClasses : Prop :=
  (∀ a1 a2 : Address, a1.toNat ≤ 0x1FFF → a2.toNat ≤ 0x1FFF →
    (decodeAddress a1 = decodeAddress a2 ↔ a1.toNat % 0x0800 = a2.toNat % 0x0800)) ∧
  (∀ (a : Address) (o : Nat), o < 0x0800 →
    (decodeAddress a = ⟨.internalRAM, BitVec.ofNat 16 o⟩ ↔
      a.toNat = o ∨ a.toNat = o + 0x0800 ∨ a.toNat = o + 0x1000 ∨ a.toNat = o + 0x1800)) ∧
  (∀ a1 a2 : Address, 0x2000 ≤ a1.toNat → a1.toNat ≤ 0x3FFF → 0x2000 ≤ a2.toNat → a2.toNat ≤ 0x3FFF →
    (decodeAddress a1 = decodeAddress a2 ↔ a1.toNat % 0x0008 = a2.toNat % 0x0008)) ∧
  (∀ (a : Address) (o : Nat), o < 8 →
    (decodeAddress a = ⟨.ppuRegisters, BitVec.ofNat 16 o⟩ ↔ ∃ n, n < 1024 ∧ a.toNat = 0x2000 + o + 8 * n)) ∧
  (∀ a1 a2 : Address, 0x4000 ≤ a1.toNat → decodeAddress a1 = decodeAddress a2 → a1 = a2) ∧
  (∀ a1 a2 : Address, (decodeAddress a1).kind ≠ (decodeAddress a2).kind → decodeAddress a1 ≠ decodeAddress a2) ∧
  decodeAddress 0x0000#16 = ⟨.internalRAM, 0x0000#16⟩ ∧ decodeAddress 0x1FFF#16 = ⟨.internalRAM, 0x07FF#16⟩ ∧
  decodeAddress 0x2000#16 = ⟨.ppuRegisters, 0x0000#16⟩ ∧ decodeAddress 0x3FFF#16 = ⟨.ppuRegisters, 0x0007#16⟩ ∧
  decodeAddress 0x4000#16 = ⟨.apuIORegisters, 0x0000#16⟩ ∧ decodeAddress 0x401F#16 = ⟨.apuIORegisters, 0x001F#16⟩ ∧
  decodeAddress 0x4020#16 = ⟨.cartridge, 0x0000#16⟩ ∧ decodeAddress 0xFFFF#16 = ⟨.cartridge, 0xBFDF#16⟩

/-- The rows REGION.InternalRAM, REGION.PPURegisters and REGION.APUIORegisters complete in every state with the kind and
offset of 30_encoding.md section 3, and change nothing else. That a row runs on its own, and that its answer is put into
`lookups`, is the model's choice (log entry 1). -/
def Obligations.MaskedRegionRowsComplete : Prop :=
  ∀ s : State,
    (∀ low, exec (.regionInternalRAM low) s =
      .next { s with lookups := ⟨.internalRAM, BitVec.ofNat 16 (low.toNat % 0x0800)⟩ :: s.lookups }) ∧
    (∀ low, exec (.regionPPURegisters low) s =
      .next { s with lookups := ⟨.ppuRegisters, BitVec.ofNat 16 (low.toNat % 0x0008)⟩ :: s.lookups }) ∧
    (∀ low, exec (.regionAPUIORegisters low) s =
      .next { s with lookups := ⟨.apuIORegisters, BitVec.ofNat 16 low.toNat⟩ :: s.lookups })

/-- The ten REGION.Cartridge rows complete in every state: kind Cartridge, offset the address less $4020, nothing else
changed. That a row runs on its own, and that its answer is put into `lookups`, is the model's choice (log entry 1). -/
def Obligations.CartridgeRegionRowsComplete : Prop :=
  ∀ s : State,
    (∀ low, exec (.regionCartridge4020 low) s =
      .next { s with lookups := ⟨.cartridge, BitVec.ofNat 16 (0x4020 + low.toNat - 0x4020)⟩ :: s.lookups }) ∧
    (∀ low, exec (.regionCartridge4040 low) s =
      .next { s with lookups := ⟨.cartridge, BitVec.ofNat 16 (0x4040 + low.toNat - 0x4020)⟩ :: s.lookups }) ∧
    (∀ low, exec (.regionCartridge4080 low) s =
      .next { s with lookups := ⟨.cartridge, BitVec.ofNat 16 (0x4080 + low.toNat - 0x4020)⟩ :: s.lookups }) ∧
    (∀ low, exec (.regionCartridge4100 low) s =
      .next { s with lookups := ⟨.cartridge, BitVec.ofNat 16 (0x4100 + low.toNat - 0x4020)⟩ :: s.lookups }) ∧
    (∀ low, exec (.regionCartridge4200 low) s =
      .next { s with lookups := ⟨.cartridge, BitVec.ofNat 16 (0x4200 + low.toNat - 0x4020)⟩ :: s.lookups }) ∧
    (∀ low, exec (.regionCartridge4400 low) s =
      .next { s with lookups := ⟨.cartridge, BitVec.ofNat 16 (0x4400 + low.toNat - 0x4020)⟩ :: s.lookups }) ∧
    (∀ low, exec (.regionCartridge4800 low) s =
      .next { s with lookups := ⟨.cartridge, BitVec.ofNat 16 (0x4800 + low.toNat - 0x4020)⟩ :: s.lookups }) ∧
    (∀ low, exec (.regionCartridge5000 low) s =
      .next { s with lookups := ⟨.cartridge, BitVec.ofNat 16 (0x5000 + low.toNat - 0x4020)⟩ :: s.lookups }) ∧
    (∀ low, exec (.regionCartridge6000 low) s =
      .next { s with lookups := ⟨.cartridge, BitVec.ofNat 16 (0x6000 + low.toNat - 0x4020)⟩ :: s.lookups }) ∧
    (∀ low, exec (.regionCartridge8000 low) s =
      .next { s with lookups := ⟨.cartridge, BitVec.ofNat 16 (0x8000 + low.toNat - 0x4020)⟩ :: s.lookups })

/-- The thirteen rows together are `decode`: presented with an address, the row it matches answers what DECODE answers
(30_encoding.md section 3, 40_decode.md section 1; the answer's place is log entry 1). -/
def Obligations.RegionRowsAreTheDecoder : Prop :=
  ∀ (a : Address) (s : State),
    exec (decodePortWord (.address a)) s = .next { s with lookups := decodeAddress a :: s.lookups }

/-! ### DECODE, READ, WRITE, INSTALL -/

/-- R69, R75, R80: the DECODE word; what `decode` is; and DECODE is performed with status OK in every state, faulted or not,
whatever the slots hold: its answer is a function of the address alone, and it changes no slot, no latch, no device, and
makes no exchange. -/
def Obligations.DecodeAnswersInEveryState : Prop :=
  ∀ (a : Address) (s : State),
    (∃ w, encode (.decode a) = .request w ∧ w.toNat = 0xC0000000 + a.toNat * 2 ^ 8 ∧ decodeRequest w = .decode a) ∧
    decodeAddress a =
      (if a.toNat ≤ 0x1FFF then ⟨.internalRAM, BitVec.ofNat 16 (a.toNat % 0x0800)⟩
       else if a.toNat ≤ 0x3FFF then ⟨.ppuRegisters, BitVec.ofNat 16 (a.toNat % 0x0008)⟩
       else if a.toNat ≤ 0x401F then ⟨.apuIORegisters, BitVec.ofNat 16 (a.toNat - 0x4000)⟩
       else ⟨.cartridge, BitVec.ofNat 16 (a.toNat - 0x4020)⟩) ∧
    exec (.decode a) s =
      .next { s with responses := .decoded (decodeAddress a).kind (decodeAddress a).offset :: s.responses } ∧
    (Response.decoded (decodeAddress a).kind (decodeAddress a).offset).status = .ok

/-- R81: the READ word, and READ in its four cases. -/
def Obligations.ReadOperation : Prop :=
  ∀ (a : Address) (s : State) (k : Kind) (o : Offset), decodeAddress a = ⟨k, o⟩ →
    (∃ w, encode (.read a) = .request w ∧ w.toNat = a.toNat * 2 ^ 8 ∧ decodeRequest w = .read a) ∧
    (∀ r, s.fault = some r → exec (.read a) s = .next { s with responses := .fault r :: s.responses }) ∧
    (s.fault = none → s.table.get k = none →
      exec (.read a) s = .next { s with
        fault := some (.configurationError k o)
        responses := .fault (.configurationError k o) :: s.responses }) ∧
    (∀ (d : DevId) (dev dev' : Device), s.fault = none → s.table.get k = some d → s.device d = some dev →
      (∀ b, deviceRead d s.draws o dev = (dev', .ok b) →
        exec (.read a) s = .next { s with
          devices := s.devices.set d.toNat dev'
          draws := s.draws + drawsUsed dev
          portLog := .read k d o (.ok b) :: s.portLog
          responses := .byte k o b :: s.responses }) ∧
      (∀ f, deviceRead d s.draws o dev = (dev', .fault f) →
        exec (.read a) s = .next { s with
          devices := s.devices.set d.toNat dev'
          draws := s.draws + drawsUsed dev
          portLog := .read k d o (.fault f) :: s.portLog
          fault := some (.deviceFault k o f)
          responses := .fault (.deviceFault k o f) :: s.responses }))

/-- R82: the WRITE word, and WRITE in its four cases. -/
def Obligations.WriteOperation : Prop :=
  ∀ (a : Address) (v : Byte) (s : State) (k : Kind) (o : Offset), decodeAddress a = ⟨k, o⟩ →
    (∃ w, encode (.write a v) = .request w ∧ w.toNat = 0x40000000 + a.toNat * 2 ^ 8 + v.toNat ∧
      decodeRequest w = .write a v) ∧
    (∀ r, s.fault = some r → exec (.write a v) s = .next { s with responses := .fault r :: s.responses }) ∧
    (s.fault = none → s.table.get k = none →
      exec (.write a v) s = .next { s with
        fault := some (.configurationError k o)
        responses := .fault (.configurationError k o) :: s.responses }) ∧
    (∀ (d : DevId) (dev dev' : Device), s.fault = none → s.table.get k = some d → s.device d = some dev →
      (deviceWrite d s.draws o v dev = (dev', .ok) →
        exec (.write a v) s = .next { s with
          devices := s.devices.set d.toNat dev'
          draws := s.draws + drawsUsed dev
          portLog := .write k d o v .ok :: s.portLog
          responses := .written k o :: s.responses }) ∧
      (∀ f, deviceWrite d s.draws o v dev = (dev', .fault f) →
        exec (.write a v) s = .next { s with
          devices := s.devices.set d.toNat dev'
          draws := s.draws + drawsUsed dev
          portLog := .write k d o v (.fault f) :: s.portLog
          fault := some (.deviceFault k o f)
          responses := .fault (.deviceFault k o f) :: s.responses }))

/-- R38, the reference RAM (the spec's decision D28) bound to the InternalRAM slot: a READ through any RAM address responds
with the byte it holds and changes no device; a byte never written reads as RAM_INIT, a free value; a WRITE stores that byte
and no other; neither ever faults. -/
def Obligations.ReferenceRamHoldsItsBytes : Prop :=
  ∀ (a : Address) (s : State) (d : DevId) (mem : Memory),
    a.toNat ≤ 0x1FFF → s.fault = none → s.table.get .internalRAM = some d → s.device d = some (.ram 0x0800 mem) →
    exec (.read a) s = .next { s with
      portLog := .read .internalRAM d (decodeAddress a).offset (.ok (ramByte d mem (decodeAddress a).offset)) :: s.portLog
      responses := .byte .internalRAM (decodeAddress a).offset (ramByte d mem (decodeAddress a).offset) :: s.responses } ∧
    (Memory.read mem (decodeAddress a).offset.toNat = none →
      ramByte d mem (decodeAddress a).offset = Config.ramInit d (decodeAddress a).offset) ∧
    (∀ v, ∃ t mem', exec (.write a v) s = .next t ∧ t.fault = none ∧ t.table = s.table ∧
      t.responses = .written .internalRAM (decodeAddress a).offset :: s.responses ∧
      t.device d = some (.ram 0x0800 mem') ∧ ramByte d mem' (decodeAddress a).offset = v ∧
      (∀ o, o ≠ (decodeAddress a).offset → ramByte d mem' o = ramByte d mem o) ∧
      ∀ d', d' ≠ d → t.device d' = s.device d')

/-- The two fixtures of 95_test_vectors.md section 2 behind any slot: TRACE gains exactly the one call it was given and
answers its byte; RAM(n) past its end reports the fault $01 and keeps its bytes. -/
def Obligations.TestDevicesAnswerAsDescribed : Prop :=
  (∀ (a : Address) (v : Byte) (s : State) (d : DevId) (c : Byte) (calls : List DeviceCall),
    s.fault = none → s.table.get (decodeAddress a).kind = some d → s.device d = some (.trace c calls) →
    (∃ t, exec (.read a) s = .next t ∧ t.device d = some (.trace c (calls ++ [.read (decodeAddress a).offset])) ∧
      t.fault = none ∧ t.responses = .byte (decodeAddress a).kind (decodeAddress a).offset c :: s.responses) ∧
    (∃ t, exec (.write a v) s = .next t ∧
      t.device d = some (.trace c (calls ++ [.write (decodeAddress a).offset v])) ∧
      t.fault = none ∧ t.responses = .written (decodeAddress a).kind (decodeAddress a).offset :: s.responses)) ∧
  (∀ (a : Address) (v : Byte) (s : State) (d : DevId) (size : Nat) (mem : Memory),
    s.fault = none → s.table.get (decodeAddress a).kind = some d → s.device d = some (.ram size mem) →
    size ≤ (decodeAddress a).offset.toNat →
    ∀ i, i = .read a ∨ i = .write a v → ∃ t, exec i s = .next t ∧ t.devices = s.devices ∧ t.table = s.table ∧
      t.fault = some (.deviceFault (decodeAddress a).kind (decodeAddress a).offset 0x01#8) ∧
      t.responses = .fault (.deviceFault (decodeAddress a).kind (decodeAddress a).offset 0x01#8) :: s.responses)

/-- R85: data pass unchanged, in both directions, between the words of the ports: `w` is what the device bound to the
decoded kind answers, the byte of an OK answer is the response's data, the byte of a fault is the latched fault's, and the
value of a WRITE is the byte of `DREQ`. -/
def Obligations.DataPassUnchanged : Prop :=
  ∀ (a : Address) (v : Byte) (s : State) (k : Kind) (o : Offset) (d : DevId) (st : Nat),
    decodeAddress a = ⟨k, o⟩ → s.fault = none → s.table.get k = some d → s.device d = some (.external st) →
    (∃ t w, w = (Config.externalExchange d st (dreqRead o) s.draws).2 ∧ exec (.read a) s = .next t ∧
      if w.toNat < 2 ^ 8 then ∃ r, t.responses = r :: s.responses ∧ r.status = .ok ∧ r.word.toNat % 2 ^ 8 = w.toNat
      else ∃ f, t.responses = .fault f :: s.responses ∧ t.fault = some f ∧ f.status = .deviceFault ∧
        f.word.toNat % 2 ^ 8 = w.toNat - 2 ^ 8) ∧
    (dreqWrite o v).toNat % 2 ^ 8 = v.toNat ∧
    ∃ t w, w = (Config.externalExchange d st (dreqWrite o v) s.draws).2 ∧ exec (.write a v) s = .next t ∧
      if w.toNat < 2 ^ 8 then t.responses = .written k o :: s.responses
      else ∃ f, t.responses = .fault f :: s.responses ∧ t.fault = some f ∧ f.status = .deviceFault ∧
        f.word.toNat % 2 ^ 8 = w.toNat - 2 ^ 8

/-- R91: the INSTALL word; INSTALL binds the device to the kind, answers OK, and changes nothing else; the three other slots
are unchanged; while faulted it is refused with the latched response. -/
def Obligations.InstallBindsTheDevice : Prop :=
  ∀ (k : Kind) (d : DevId) (s : State), d.toNat < s.ndev →
    (∃ w, encode (.install k d) = .request w ∧ w.toNat = 0x80000000 + k.code.toNat * 2 ^ 28 + d.toNat ∧
      decodeRequest w = .install k d) ∧
    (s.fault = none → ∃ tab : DeviceTable,
      exec (.install k d) s = .next { s with table := tab, responses := .installed k :: s.responses } ∧
      tab.get k = some d ∧ ∀ k', k' ≠ k → tab.get k' = s.table.get k') ∧
    (∀ r, s.fault = some r → exec (.install k d) s = .next { s with responses := .fault r :: s.responses })

/-- R57 (the spec's decision D8): the identifier is the word's data byte; well formed is a request whose identifier names a
device of the pool; any other INSTALL is refused and has no step, in every state. -/
def Obligations.InstallOfNoDeviceIsRefused : Prop :=
  ∀ (w : BitVec 32) (s : State), w.toNat / 2 ^ 30 = 2 →
    ∃ k, decodeRequest w = .install k (BitVec.ofNat 8 (w.toNat % 2 ^ 8)) ∧
      ((decodeRequest w).wf s.ndev = true ↔ w.toNat % 2 ^ 8 < s.ndev) ∧
      (s.ndev ≤ w.toNat % 2 ^ 8 →
        exec (decodeRequest w) s = .refused (.noSuchDevice (BitVec.ofNat 8 (w.toNat % 2 ^ 8))))

/-- R64 (the spec's decision D13): the only ill-formed request is an INSTALL whose device identifier names no device;
nothing else is refused, whatever the word and the address; and the status code 11 is in no response. -/
def Obligations.OnlyIllFormedInstallIsRefused : Prop :=
  (∀ (i : Instr) (s : State),
    ((∃ r, exec i s = .refused r) ↔ i.wf s.ndev = false) ∧
    (i.wf s.ndev = false ↔ ∃ k d, i = .install k d ∧ s.ndev ≤ d.toNat)) ∧
  ∀ r : Response, r.word.toNat / 2 ^ 30 ≠ 3

/-- 42_install.md on re-installation: a later INSTALL to a kind replaces the earlier binding, and the next READ of the kind
goes to the new device. -/
def Obligations.ReinstallReplacesTheBinding : Prop :=
  ∀ (k : Kind) (d d' : DevId) (s : State), s.fault = none → d.toNat < s.ndev → d'.toNat < s.ndev →
    ∃ t u, exec (.install k d) s = .next t ∧ exec (.install k d') t = .next u ∧
      u.table.get k = some d' ∧ (∀ k', k' ≠ k → u.table.get k' = s.table.get k') ∧ u.devices = s.devices ∧
      ∀ a v, (decodeAddress a).kind = k →
        ∃ p q r w, exec (.read a) u = .next p ∧ p.portLog = .read k d' (decodeAddress a).offset r :: s.portLog ∧
          exec (.write a v) u = .next q ∧ q.portLog = .write k d' (decodeAddress a).offset v w :: s.portLog

/-! ### Dispatch, frames -/

/-- Dispatch (41_access.md section 2, an inference of the spec): one exchange, on the port of the decoded kind and on no
other, when the access is performed and its slot is bound; none when it is refused or finds its slot empty. DECODE, INSTALL
and the region rows make none. -/
def Obligations.OneExchangeOnTheDecodedPort : Prop :=
  (∀ (a : Address) (s t : State), exec (.read a) s = .next t →
    (∀ d, s.fault = none → s.table.get (decodeAddress a).kind = some d →
      ∃ r, t.portLog = .read (decodeAddress a).kind d (decodeAddress a).offset r :: s.portLog) ∧
    (s.fault ≠ none ∨ s.table.get (decodeAddress a).kind = none → t.portLog = s.portLog)) ∧
  (∀ (a : Address) (v : Byte) (s t : State), exec (.write a v) s = .next t →
    (∀ d, s.fault = none → s.table.get (decodeAddress a).kind = some d →
      ∃ r, t.portLog = .write (decodeAddress a).kind d (decodeAddress a).offset v r :: s.portLog) ∧
    (s.fault ≠ none ∨ s.table.get (decodeAddress a).kind = none → t.portLog = s.portLog)) ∧
  (∀ (k : Kind) (d : DevId) (o : Offset) (v : Byte) (r : ReadResult) (w : WriteResult) (k' : Kind),
    ((PortExchange.read k d o r).sel k' = true ↔ k' = k) ∧ (PortExchange.read k d o r).dreq.extractLsb' 24 2 = 0b11#2 ∧
    (PortExchange.read k d o r).dreq.extractLsb' 8 16 = o ∧
    ((PortExchange.write k d o v w).sel k' = true ↔ k' = k) ∧
    (PortExchange.write k d o v w).dreq.extractLsb' 24 2 = 0b10#2 ∧
    (PortExchange.write k d o v w).dreq.extractLsb' 8 16 = o ∧
    (PortExchange.write k d o v w).dreq.extractLsb' 0 8 = v) ∧
  (∀ (i : Instr) (s t : State), exec i s = .next t → (∀ a, i ≠ .read a) → (∀ a v, i ≠ .write a v) →
    t.portLog = s.portLog)

/-- The slots of the other kinds are not looked at: with any other bindings there, an access does the same and leaves them
as they are (41_access.md section 2; the spec's decision D12). -/
def Obligations.OtherSlotsAreNotLookedAt : Prop :=
  ∀ (a : Address) (v : Byte) (s : State) (tab : DeviceTable),
    tab.get (decodeAddress a).kind = s.table.get (decodeAddress a).kind →
    ∀ i, i = .read a ∨ i = .write a v →
      match exec i s with
      | .next t => exec i { s with table := tab } = .next { t with table := tab }
      | .fault f => exec i { s with table := tab } = .fault f
      | .refused r => exec i { s with table := tab } = .refused r

/-- Which operation writes which state (10_state.md section 9): the table only INSTALL, the latch only READ and WRITE, a
device's state only a READ or WRITE whose decoded slot names it, and only while not faulted. No instruction touches the pool
or the requests still to come. -/
def Obligations.WhoWritesWhat : Prop :=
  ∀ (i : Instr) (s t : State), exec i s = .next t →
    (t.table ≠ s.table → s.fault = none ∧ ∃ k d, i = .install k d ∧ t.table = s.table.bind k d) ∧
    (t.fault ≠ s.fault → s.fault = none ∧ ((∃ a, i = .read a) ∨ ∃ a v, i = .write a v)) ∧
    (∀ d, t.device d ≠ s.device d → s.fault = none ∧
      ∃ a, (i = .read a ∨ ∃ v, i = .write a v) ∧ s.table.get (decodeAddress a).kind = some d) ∧
    t.pool = s.pool ∧ t.inputs = s.inputs ∧ t.endedRuns = s.endedRuns

/-- The frame of the stored bytes: a READ, a DECODE, an INSTALL and a region row change no stored byte of any RAM, at any
offset (10_state.md section 9, 20_memory.md section 2). -/
def Obligations.NonStoringInstructionsKeepEveryByte : Prop :=
  ∀ (i : Instr) (s t : State), (∀ a v, i ≠ .write a v) → exec i s = .next t →
    ∀ (d : DevId) (o : Offset), storedByte d o t = storedByte d o s

/-- The frame of a WRITE: every stored byte but the one at the decoded offset of the device bound to the decoded kind is
unchanged; that one, where a RAM has it and the access is performed, is the value written. -/
def Obligations.WriteChangesOneByte : Prop :=
  ∀ (a : Address) (v : Byte) (s t : State), exec (.write a v) s = .next t →
    (∀ (d : DevId) (o : Offset), ¬ (s.table.get (decodeAddress a).kind = some d ∧ o = (decodeAddress a).offset) →
      storedByte d o t = storedByte d o s) ∧
    (∀ d, s.fault = none → s.table.get (decodeAddress a).kind = some d →
      storedByte d (decodeAddress a).offset s ≠ none → storedByte d (decodeAddress a).offset t = some v)

/-- PPU register aliasing (41_access.md section 3, an inference of the spec): the two PPU aliases of a register are the same
request: READ and WRITE through either give the same outcome in every part of the state, the exchange with the device
included. -/
def Obligations.PpuAliasesAreTheSameAccess : Prop :=
  ∀ (a1 a2 : Address) (v : Byte) (s : State),
    0x2000 ≤ a1.toNat → a1.toNat ≤ 0x3FFF → 0x2000 ≤ a2.toNat → a2.toNat ≤ 0x3FFF →
    a1.toNat % 0x0008 = a2.toNat % 0x0008 →
    exec (.read a1) s = exec (.read a2) s ∧ exec (.write a1 v) s = exec (.write a2 v) s

/-- The RAM mirroring theorem of 41_access.md section 3, with nothing in between: after WRITE through one alias, READ
through the other responds with the value. -/
def Obligations.RamMirrorShowsTheWrite : Prop :=
  ∀ (a1 a2 : Address) (v : Byte) (s : State) (d : DevId) (mem : Memory),
    a1.toNat ≤ 0x1FFF → a2.toNat ≤ 0x1FFF → a1.toNat % 0x0800 = a2.toNat % 0x0800 →
    s.fault = none → s.table.get .internalRAM = some d → s.device d = some (.ram 0x0800 mem) →
    ∃ t u, exec (.write a1 v) s = .next t ∧ exec (.read a2) t = .next u ∧ u.fault = none ∧
      u.responses = .byte .internalRAM (BitVec.ofNat 16 (a1.toNat % 0x0800)) v ::
        .written .internalRAM (BitVec.ofNat 16 (a1.toNat % 0x0800)) :: s.responses

/-- The RAM mirroring theorem of 41_access.md section 3 over a run: between the WRITE and the READ any other requests and
device activities, so long as none is a reset, a WRITE to an alias, or an INSTALL to the InternalRAM kind or of the RAM
device, and the RAM is in no other slot (20_memory.md section 2 lets a device be in two). -/
def Obligations.RamMirrorAcrossARun : Prop :=
  ∀ (a1 a2 : Address) (v : Byte) (s t : State) (d : DevId) (mem : Memory) (mid rest : List Input),
    a1.toNat ≤ 0x1FFF → a2.toNat ≤ 0x1FFF → a1.toNat % 0x0800 = a2.toNat % 0x0800 →
    s.fault = none → s.table.get .internalRAM = some d → (∀ k, k ≠ .internalRAM → s.table.get k ≠ some d) →
    s.device d = some (.ram 0x0800 mem) →
    s.inputs = .word (encode (.write a1 v)) :: (mid ++ .word (encode (.read a2)) :: rest) →
    (∀ x ∈ mid, x ≠ .reset ∧ ∀ w, x = .word w →
      (∀ a' v', decodePortWord w = .write a' v' → decodeAddress a' ≠ decodeAddress a1) ∧
      (∀ k' d', decodePortWord w = .install k' d' → k' ≠ .internalRAM ∧ d' ≠ d)) →
    Host.Core.run core (mid.length + 2) s = .next t → t.fault = none →
    t.responses.head? = some (.byte .internalRAM (decodeAddress a2).offset v)

/-- One device in two slots (70_reset_and_hazards.md section 3): a WRITE in RAM shows through the Cartridge region at the
same offset. -/
def Obligations.DeviceInTwoSlotsIsShared : Prop :=
  ∀ (a c : Address) (v : Byte) (s : State) (d : DevId) (size : Nat) (mem : Memory),
    s.fault = none → s.table.get .internalRAM = some d → s.table.get .cartridge = some d →
    s.device d = some (.ram size mem) → (decodeAddress a).kind = .internalRAM → (decodeAddress c).kind = .cartridge →
    (decodeAddress c).offset = (decodeAddress a).offset → (decodeAddress a).offset.toNat < size →
    ∃ t u, exec (.write a v) s = .next t ∧ exec (.read c) t = .next u ∧
      u.responses.head? = some (.byte .cartridge (decodeAddress c).offset v)

/-! ### Words of the ports -/

/-- The words of a device exchange (30_encoding.md section 1; the spec's decisions D9 and D10). -/
def Obligations.ExchangeWords : Prop :=
  (∀ o : Offset, (dreqRead o).toNat = 2 ^ 25 + 2 ^ 24 + o.toNat * 2 ^ 8) ∧
  (∀ (o : Offset) (v : Byte), (dreqWrite o v).toNat = 2 ^ 25 + o.toNat * 2 ^ 8 + v.toNat) ∧
  (∀ (x : PortExchange) (k : Kind), x.sel k = true ↔ k = x.port) ∧
  (∀ w : BitVec 9, w.toNat < 2 ^ 8 →
    readResultOf w = .ok (BitVec.ofNat 8 w.toNat) ∧ writeResultOf w = .ok) ∧
  (∀ w : BitVec 9, 2 ^ 8 ≤ w.toNat →
    readResultOf w = .fault (BitVec.ofNat 8 w.toNat) ∧ writeResultOf w = .fault (BitVec.ofNat 8 w.toNat))

/-- R59 (the spec's decision D6): the status codes, in the response words of 30_encoding.md section 1 as numbers; status 11
is never produced and the four zero bits are zero. -/
def Obligations.ResponseWords : Prop :=
  (∀ k o b, (Response.byte k o b).word.toNat = k.code.toNat * 2 ^ 28 + o.toNat * 2 ^ 8 + b.toNat) ∧
  (∀ k o, (Response.written k o).word.toNat = k.code.toNat * 2 ^ 28 + o.toNat * 2 ^ 8) ∧
  (∀ k, (Response.installed k).word.toNat = k.code.toNat * 2 ^ 28) ∧
  (∀ k o, (Response.decoded k o).word.toNat = k.code.toNat * 2 ^ 28 + o.toNat * 2 ^ 8) ∧
  (∀ k o, (Response.fault (.configurationError k o)).word.toNat =
    0x40000000 + k.code.toNat * 2 ^ 28 + o.toNat * 2 ^ 8) ∧
  (∀ k o f, (Response.fault (.deviceFault k o f)).word.toNat =
    0x80000000 + k.code.toNat * 2 ^ 28 + o.toNat * 2 ^ 8 + f.toNat) ∧
  (∀ r : Response, r.word.extractLsb' 30 2 ≠ 0b11#2 ∧ r.word.extractLsb' 24 4 = 0#4)

/-! ### Faults -/

/-- R104 (the spec's decision D11): fault entry latches the record, responds with it, and changes nothing else; after it no
READ, WRITE or INSTALL is performed. -/
def Obligations.FaultEntry : Prop :=
  ∀ (k : Kind) (o : Offset) (f : FaultInfo) (s : State),
    takeFault (.configurationError k o) s = { s with
      fault := some (.configurationError k o)
      responses := .fault (.configurationError k o) :: s.responses } ∧
    (FaultRecord.configurationError k o).word = 0b01#2 ++ k.code ++ 0#4 ++ o ++ 0#8 ∧
    takeFault (.deviceFault k o f) s = { s with
      fault := some (.deviceFault k o f)
      responses := .fault (.deviceFault k o f) :: s.responses } ∧
    (FaultRecord.deviceFault k o f).word = 0b10#2 ++ k.code ++ 0#4 ++ o ++ f ∧
    ∀ (r : FaultRecord) (i : Instr), i.wf s.ndev = true → (∀ a, i ≠ .decode a) → (∀ x, encode i ≠ .address x) →
      exec i (takeFault r s) = .next { s with fault := some r, responses := .fault r :: .fault r :: s.responses }

/-- 60_exceptions.md sections 1 and 3: a fault is raised by, and during, a READ or WRITE and reported in that transaction's
response; a ConfigurationError exactly when the decoded slot is empty, and then no device sees the access. -/
def Obligations.OnlyReadAndWriteRaise : Prop :=
  ∀ (i : Instr) (s t : State) (r : FaultRecord), s.fault = none → exec i s = .next t → t.fault = some r →
    ∃ a, (i = .read a ∨ ∃ v, i = .write a v) ∧ r.kind = (decodeAddress a).kind ∧ r.offset = (decodeAddress a).offset ∧
      t.responses = .fault r :: s.responses ∧
      (r = .configurationError (decodeAddress a).kind (decodeAddress a).offset ↔
        s.table.get (decodeAddress a).kind = none) ∧
      (s.table.get (decodeAddress a).kind = none → t.devices = s.devices ∧ t.portLog = s.portLog)

/-- R87, R97 (the spec's decision D11): while faulted, READ, WRITE and INSTALL change nothing and answer with the latched
response, whose status is 01 or 10; DECODE is performed. -/
def Obligations.FaultedBlockRefusesAccesses : Prop :=
  ∀ (s : State) (r : FaultRecord), s.fault = some r →
    (Response.fault r).word = r.word ∧ (r.word.toNat / 2 ^ 30 = 1 ∨ r.word.toNat / 2 ^ 30 = 2) ∧
    (∀ a, exec (.read a) s = .next { s with responses := .fault r :: s.responses }) ∧
    (∀ a v, exec (.write a v) s = .next { s with responses := .fault r :: s.responses }) ∧
    (∀ k d, d.toNat < s.ndev → exec (.install k d) s = .next { s with responses := .fault r :: s.responses }) ∧
    (∀ a, exec (.decode a) s = .next { s with
      responses := .decoded (decodeAddress a).kind (decodeAddress a).offset :: s.responses })

/-- A fault is terminal: along every run with no reset among its inputs, the latch keeps the first fault, the table is
frozen and no exchange is made (10_state.md section 9, 60_exceptions.md section 5). -/
def Obligations.FaultIsTerminalAlongARun : Prop :=
  ∀ (n : Nat) (s t : State) (r : FaultRecord), s.fault = some r → (∀ x ∈ s.inputs, x ≠ .reset) →
    Host.Core.run core n s = .next t →
    t.fault = some r ∧ t.table = s.table ∧ t.portLog = s.portLog ∧
    ∀ d o, storedByte d o t = storedByte d o s

/-- Boot (70_reset_and_hazards.md section 2; 42_install.md on first installation): once a kind is bound, no run without a
reset raises a ConfigurationError for it, and its slot stays bound. With all four bound, none is raised at all. -/
def Obligations.BoundKindNeverMissesItsDevice : Prop :=
  ∀ (n : Nat) (s t : State) (k : Kind), s.table.get k ≠ none → s.fault = none → (∀ x ∈ s.inputs, x ≠ .reset) →
    Host.Core.run core n s = .next t →
    t.table.get k ≠ none ∧ (∀ o, t.fault ≠ some (.configurationError k o)) ∧
    (s.allBound → t.allBound ∧ ∀ k' o, t.fault ≠ some (.configurationError k' o))

/-- 42_install.md, an inference of the spec: no operation empties a slot; only a reset does. -/
def Obligations.OnlyResetEmptiesASlot : Prop :=
  ∀ (s t : State) (k : Kind), step s = .next t → s.table.get k ≠ none → t.table.get k = none →
    ∃ rest, s.inputs = .reset :: rest

/-! ### Reset, steps, invariants -/

/-- The block's state after reset, as 10_state.md section 8 gives it: every slot Empty, the latch clear. -/
def Obligations.ResetStateIsEmpty : Prop :=
  (∀ k, State.reset.table.get k = none) ∧ State.reset.fault = none

/-- R115 (the spec's decision D14): a reset presented empties all four slots and clears the latch, makes no exchange, and
leaves every device's state unchanged; it sends no response. -/
def Obligations.ResetTouchesNoDevice : Prop :=
  ∀ (s : State) (rest : List Input), s.inputs = .reset :: rest →
    ∃ t, step s = .next t ∧ (∀ k, t.table.get k = none) ∧ t.fault = none ∧ t.devices = s.devices ∧
      t.portLog = s.portLog ∧ t.responses = s.responses ∧ t.inputs = rest

/-- Between transactions a device may act on its own (10_state.md section 4): nothing of the block and no other device
changes, and no RAM ever does. That such an activity is an input of the model is its choice (log entry 14). -/
def Obligations.DeviceActivityTouchesOnlyItsDevice : Prop :=
  ∀ (s : State) (d : DevId) (rest : List Input), s.inputs = .activity d :: rest →
    ∃ t, step s = .next t ∧ t.table = s.table ∧ t.fault = s.fault ∧ t.responses = s.responses ∧ t.portLog = s.portLog ∧
      t.inputs = rest ∧ t.endedRuns = s.endedRuns ∧ (∀ d', d' ≠ d → t.device d' = s.device d') ∧
      ∀ d' o, storedByte d' o t = storedByte d' o s

/-- A step runs the decoded instruction: the word at the head of the sequence is taken from it, decoded and executed; and a
word of the opcode table presented next is the one that runs (how words come to be presented is log entry 2). -/
def Obligations.StepRunsTheDecodedInstruction : Prop :=
  (∀ (s : State) (i : Instr) (w : PortWord) (rest : List Input),
    s.inputs = .word w :: rest → decodePortWord w = i → step s = exec i { s with inputs := rest }) ∧
  ∀ (s : State) (i : Instr) (nbits w : Nat), decodeTableWord nbits w = some i →
    step (s.withFetchWord nbits w) = exec i s

/-- One request word produces one response (30_encoding.md section 1), and the requests are performed one at a time in the
order issued (20_memory.md section 6). -/
def Obligations.OneResponsePerRequest : Prop :=
  ∀ (s t : State) (w : BitVec 32) (rest : List Input), s.inputs = .word (.request w) :: rest → step s = .next t →
    (∃ r, t.responses = r :: s.responses) ∧ t.inputs = rest ∧ t.lookups = s.lookups

/-- 41_access.md section 3, an inference of the spec: nothing but the table, the latch and the devices is kept from one
transaction to the next. The records of what was sent and exchanged and of the runs
that ended (the model's own, log entries 4 and 19) are written and never read. -/
def Obligations.RecordsDoNotFeedBack : Prop :=
  ∀ (i : Instr) (s t : State) (rs : List Response) (ls : List Target) (ps : List PortExchange)
    (es : List (Option FaultRecord)), exec i s = .next t →
    ∃ r l p, t.responses = r ++ s.responses ∧ t.lookups = l ++ s.lookups ∧ t.portLog = p ++ s.portLog ∧
      t.endedRuns = s.endedRuns ∧
      exec i { s with responses := rs, lookups := ls, portLog := ps, endedRuns := es } =
        .next { t with responses := r ++ rs, lookups := l ++ ls, portLog := p ++ ps, endedRuns := es }

/-- The invariant holds at reset. -/
def Obligations.ResetIsLegal : Prop := State.reset.Inv

/-- From every legal state every step leads to a legal state: slots name devices of the pool, RAMs stay in canonical form, a
latched fault agrees with the table (10_state.md section 9). -/
def Obligations.StepKeepsLegality : Prop :=
  ∀ s t : State, s.Inv → step s = .next t → t.Inv

/-- In a legal state the machine never stops with a fault, and stops with a refusal only at an ill-formed INSTALL. -/
def Obligations.LegalStatesGoOn : Prop :=
  ∀ s : State, s.Inv →
    (∃ t, step s = .next t) ∨
      ∃ w rest k d, s.inputs = .word w :: rest ∧ decodePortWord w = .install k d ∧ s.ndev ≤ d.toNat ∧
        step s = .refused (.noSuchDevice d)

/-! ### Runs -/

/-- A fault mark is never cleared by a step, only by a reset, which starts a new run (60_exceptions.md section 8): a step that
performs a reset ends the run, keeps what its latch held, and leaves the block empty and not faulted; every other step
stays in the run and keeps a latched fault. That the ended runs are kept in `endedRuns` is the model's choice (log entry
19). -/
def Obligations.OnlyResetStartsANewRun : Prop :=
  ∀ s t : State, step s = .next t →
    (∃ rest, s.inputs = .reset :: rest ∧ t.endedRuns = s.fault :: s.endedRuns ∧ t.fault = none ∧
      ∀ k, t.table.get k = none) ∨
    ((∀ rest, s.inputs ≠ .reset :: rest) ∧ t.endedRuns = s.endedRuns ∧ ∀ r, s.fault = some r → t.fault = some r)

/-- A faulted state refutes the run that reaches it, and no reset undoes that (60_exceptions.md section 8): along any steps,
resets among them, the state reached is refuted exactly when the one started from was, or some state on the way, either
end included, was faulted; and a state that is refuted has not ended well, which it otherwise has when no request is
left. -/
def Obligations.AFaultedRunIsRefutedForGood : Prop :=
  ∀ (n : Nat) (s t : State), Host.Core.run core n s = .next t →
    (t.refuted ↔ s.refuted ∨ ∃ m u, m ≤ n ∧ Host.Core.run core m s = .next u ∧ u.fault ≠ none) ∧
    (t.refuted → ¬ t.endedWell) ∧ (t.inputs = [] → ¬ t.refuted → t.endedWell ∧ t.lastRunEndedWell)
end

