-- ==== Sys2Proof/Laws/State.lean ====
section
/-! SUPPORT. One lemma per field per update of the state, so that no later proof unfolds a record update. -/

namespace Sys2Proof.Machine

variable (s : State)

@[simp] theorem State.bind_table (k : Kind) (d : DevId) : (s.bind k d).table = s.table.bind k d := rfl
@[simp] theorem State.bind_fault (k : Kind) (d : DevId) : (s.bind k d).fault = s.fault := rfl
@[simp] theorem State.bind_devices (k : Kind) (d : DevId) : (s.bind k d).devices = s.devices := rfl
@[simp] theorem State.bind_inputs (k : Kind) (d : DevId) : (s.bind k d).inputs = s.inputs := rfl
@[simp] theorem State.bind_responses (k : Kind) (d : DevId) : (s.bind k d).responses = s.responses := rfl
@[simp] theorem State.bind_lookups (k : Kind) (d : DevId) : (s.bind k d).lookups = s.lookups := rfl
@[simp] theorem State.bind_portLog (k : Kind) (d : DevId) : (s.bind k d).portLog = s.portLog := rfl
@[simp] theorem State.bind_draws (k : Kind) (d : DevId) : (s.bind k d).draws = s.draws := rfl
@[simp] theorem State.bind_endedRuns (k : Kind) (d : DevId) : (s.bind k d).endedRuns = s.endedRuns := rfl

@[simp] theorem State.latch_table (r : FaultRecord) : (s.latch r).table = s.table := rfl
@[simp] theorem State.latch_fault (r : FaultRecord) : (s.latch r).fault = some r := rfl
@[simp] theorem State.latch_devices (r : FaultRecord) : (s.latch r).devices = s.devices := rfl
@[simp] theorem State.latch_inputs (r : FaultRecord) : (s.latch r).inputs = s.inputs := rfl
@[simp] theorem State.latch_responses (r : FaultRecord) : (s.latch r).responses = s.responses := rfl
@[simp] theorem State.latch_lookups (r : FaultRecord) : (s.latch r).lookups = s.lookups := rfl
@[simp] theorem State.latch_portLog (r : FaultRecord) : (s.latch r).portLog = s.portLog := rfl
@[simp] theorem State.latch_draws (r : FaultRecord) : (s.latch r).draws = s.draws := rfl
@[simp] theorem State.latch_endedRuns (r : FaultRecord) : (s.latch r).endedRuns = s.endedRuns := rfl

@[simp] theorem State.putDevice_table (d : DevId) (dev : Device) : (s.putDevice d dev).table = s.table := rfl
@[simp] theorem State.putDevice_fault (d : DevId) (dev : Device) : (s.putDevice d dev).fault = s.fault := rfl
@[simp] theorem State.putDevice_devices (d : DevId) (dev : Device) : (s.putDevice d dev).devices = s.devices.set d.toNat dev := rfl
@[simp] theorem State.putDevice_inputs (d : DevId) (dev : Device) : (s.putDevice d dev).inputs = s.inputs := rfl
@[simp] theorem State.putDevice_responses (d : DevId) (dev : Device) : (s.putDevice d dev).responses = s.responses := rfl
@[simp] theorem State.putDevice_lookups (d : DevId) (dev : Device) : (s.putDevice d dev).lookups = s.lookups := rfl
@[simp] theorem State.putDevice_portLog (d : DevId) (dev : Device) : (s.putDevice d dev).portLog = s.portLog := rfl
@[simp] theorem State.putDevice_draws (d : DevId) (dev : Device) : (s.putDevice d dev).draws = s.draws := rfl
@[simp] theorem State.putDevice_endedRuns (d : DevId) (dev : Device) : (s.putDevice d dev).endedRuns = s.endedRuns := rfl

@[simp] theorem State.respond_table (r : Response) : (s.respond r).table = s.table := rfl
@[simp] theorem State.respond_fault (r : Response) : (s.respond r).fault = s.fault := rfl
@[simp] theorem State.respond_devices (r : Response) : (s.respond r).devices = s.devices := rfl
@[simp] theorem State.respond_inputs (r : Response) : (s.respond r).inputs = s.inputs := rfl
@[simp] theorem State.respond_responses (r : Response) : (s.respond r).responses = r :: s.responses := rfl
@[simp] theorem State.respond_lookups (r : Response) : (s.respond r).lookups = s.lookups := rfl
@[simp] theorem State.respond_portLog (r : Response) : (s.respond r).portLog = s.portLog := rfl
@[simp] theorem State.respond_draws (r : Response) : (s.respond r).draws = s.draws := rfl
@[simp] theorem State.respond_endedRuns (r : Response) : (s.respond r).endedRuns = s.endedRuns := rfl

@[simp] theorem State.emitLookup_table (t : Target) : (s.emitLookup t).table = s.table := rfl
@[simp] theorem State.emitLookup_fault (t : Target) : (s.emitLookup t).fault = s.fault := rfl
@[simp] theorem State.emitLookup_devices (t : Target) : (s.emitLookup t).devices = s.devices := rfl
@[simp] theorem State.emitLookup_inputs (t : Target) : (s.emitLookup t).inputs = s.inputs := rfl
@[simp] theorem State.emitLookup_responses (t : Target) : (s.emitLookup t).responses = s.responses := rfl
@[simp] theorem State.emitLookup_lookups (t : Target) : (s.emitLookup t).lookups = t :: s.lookups := rfl
@[simp] theorem State.emitLookup_portLog (t : Target) : (s.emitLookup t).portLog = s.portLog := rfl
@[simp] theorem State.emitLookup_draws (t : Target) : (s.emitLookup t).draws = s.draws := rfl
@[simp] theorem State.emitLookup_endedRuns (t : Target) : (s.emitLookup t).endedRuns = s.endedRuns := rfl

@[simp] theorem State.logExchange_table (x : PortExchange) : (s.logExchange x).table = s.table := rfl
@[simp] theorem State.logExchange_fault (x : PortExchange) : (s.logExchange x).fault = s.fault := rfl
@[simp] theorem State.logExchange_devices (x : PortExchange) : (s.logExchange x).devices = s.devices := rfl
@[simp] theorem State.logExchange_inputs (x : PortExchange) : (s.logExchange x).inputs = s.inputs := rfl
@[simp] theorem State.logExchange_responses (x : PortExchange) : (s.logExchange x).responses = s.responses := rfl
@[simp] theorem State.logExchange_lookups (x : PortExchange) : (s.logExchange x).lookups = s.lookups := rfl
@[simp] theorem State.logExchange_portLog (x : PortExchange) : (s.logExchange x).portLog = x :: s.portLog := rfl
@[simp] theorem State.logExchange_draws (x : PortExchange) : (s.logExchange x).draws = s.draws := rfl
@[simp] theorem State.logExchange_endedRuns (x : PortExchange) : (s.logExchange x).endedRuns = s.endedRuns := rfl

@[simp] theorem State.advanceDraws_table (n : Nat) : (s.advanceDraws n).table = s.table := rfl
@[simp] theorem State.advanceDraws_fault (n : Nat) : (s.advanceDraws n).fault = s.fault := rfl
@[simp] theorem State.advanceDraws_devices (n : Nat) : (s.advanceDraws n).devices = s.devices := rfl
@[simp] theorem State.advanceDraws_inputs (n : Nat) : (s.advanceDraws n).inputs = s.inputs := rfl
@[simp] theorem State.advanceDraws_responses (n : Nat) : (s.advanceDraws n).responses = s.responses := rfl
@[simp] theorem State.advanceDraws_lookups (n : Nat) : (s.advanceDraws n).lookups = s.lookups := rfl
@[simp] theorem State.advanceDraws_portLog (n : Nat) : (s.advanceDraws n).portLog = s.portLog := rfl
@[simp] theorem State.advanceDraws_draws (n : Nat) : (s.advanceDraws n).draws = s.draws + n := rfl
@[simp] theorem State.advanceDraws_endedRuns (n : Nat) : (s.advanceDraws n).endedRuns = s.endedRuns := rfl

@[simp] theorem State.setInputs_table (xs : List Input) : (s.setInputs xs).table = s.table := rfl
@[simp] theorem State.setInputs_fault (xs : List Input) : (s.setInputs xs).fault = s.fault := rfl
@[simp] theorem State.setInputs_devices (xs : List Input) : (s.setInputs xs).devices = s.devices := rfl
@[simp] theorem State.setInputs_inputs (xs : List Input) : (s.setInputs xs).inputs = xs := rfl
@[simp] theorem State.setInputs_responses (xs : List Input) : (s.setInputs xs).responses = s.responses := rfl
@[simp] theorem State.setInputs_lookups (xs : List Input) : (s.setInputs xs).lookups = s.lookups := rfl
@[simp] theorem State.setInputs_portLog (xs : List Input) : (s.setInputs xs).portLog = s.portLog := rfl
@[simp] theorem State.setInputs_draws (xs : List Input) : (s.setInputs xs).draws = s.draws := rfl
@[simp] theorem State.setInputs_endedRuns (xs : List Input) : (s.setInputs xs).endedRuns = s.endedRuns := rfl

@[simp] theorem presentInput_table (x : Input) : (presentInput x s).table = s.table := rfl
@[simp] theorem presentInput_fault (x : Input) : (presentInput x s).fault = s.fault := rfl
@[simp] theorem presentInput_devices (x : Input) : (presentInput x s).devices = s.devices := rfl
@[simp] theorem presentInput_inputs (x : Input) : (presentInput x s).inputs = x :: s.inputs := rfl
@[simp] theorem presentInput_responses (x : Input) : (presentInput x s).responses = s.responses := rfl
@[simp] theorem presentInput_lookups (x : Input) : (presentInput x s).lookups = s.lookups := rfl
@[simp] theorem presentInput_portLog (x : Input) : (presentInput x s).portLog = s.portLog := rfl
@[simp] theorem presentInput_draws (x : Input) : (presentInput x s).draws = s.draws := rfl
@[simp] theorem presentInput_endedRuns (x : Input) : (presentInput x s).endedRuns = s.endedRuns := rfl

@[simp] theorem takeFault_table (r : FaultRecord) : (takeFault r s).table = s.table := rfl
@[simp] theorem takeFault_fault (r : FaultRecord) : (takeFault r s).fault = some r := rfl
@[simp] theorem takeFault_devices (r : FaultRecord) : (takeFault r s).devices = s.devices := rfl
@[simp] theorem takeFault_inputs (r : FaultRecord) : (takeFault r s).inputs = s.inputs := rfl
@[simp] theorem takeFault_responses (r : FaultRecord) : (takeFault r s).responses = .fault r :: s.responses := rfl
@[simp] theorem takeFault_lookups (r : FaultRecord) : (takeFault r s).lookups = s.lookups := rfl
@[simp] theorem takeFault_portLog (r : FaultRecord) : (takeFault r s).portLog = s.portLog := rfl
@[simp] theorem takeFault_draws (r : FaultRecord) : (takeFault r s).draws = s.draws := rfl
@[simp] theorem takeFault_endedRuns (r : FaultRecord) : (takeFault r s).endedRuns = s.endedRuns := rfl

@[simp] theorem State.endRun_table : s.endRun.table = s.table := rfl
@[simp] theorem State.endRun_fault : s.endRun.fault = s.fault := rfl
@[simp] theorem State.endRun_devices : s.endRun.devices = s.devices := rfl
@[simp] theorem State.endRun_inputs : s.endRun.inputs = s.inputs := rfl
@[simp] theorem State.endRun_responses : s.endRun.responses = s.responses := rfl
@[simp] theorem State.endRun_lookups : s.endRun.lookups = s.lookups := rfl
@[simp] theorem State.endRun_portLog : s.endRun.portLog = s.portLog := rfl
@[simp] theorem State.endRun_draws : s.endRun.draws = s.draws := rfl
@[simp] theorem State.endRun_endedRuns : s.endRun.endedRuns = s.fault :: s.endedRuns := rfl

@[simp] theorem resetBlock_table : (resetBlock s).table = DeviceTable.empty := rfl
@[simp] theorem resetBlock_fault : (resetBlock s).fault = none := rfl
@[simp] theorem resetBlock_devices : (resetBlock s).devices = s.devices := rfl
@[simp] theorem resetBlock_inputs : (resetBlock s).inputs = s.inputs := rfl
@[simp] theorem resetBlock_responses : (resetBlock s).responses = s.responses := rfl
@[simp] theorem resetBlock_lookups : (resetBlock s).lookups = s.lookups := rfl
@[simp] theorem resetBlock_portLog : (resetBlock s).portLog = s.portLog := rfl
@[simp] theorem resetBlock_draws : (resetBlock s).draws = s.draws := rfl
@[simp] theorem resetBlock_endedRuns : (resetBlock s).endedRuns = s.fault :: s.endedRuns := rfl

/-! ### The derived views -/

theorem State.device_eq (d : DevId) : s.device d = s.devices[d.toNat]? := rfl

theorem State.ndev_eq : s.ndev = s.devices.length := rfl

/-- A device that is there lies below `NDEV`. -/
theorem State.lt_ndev_of_device {s : State} {d : DevId} {dev : Device} (h : s.device d = some dev) :
    d.toNat < s.devices.length :=
  (List.getElem?_eq_some_iff.1 h).1

/-- Below `NDEV` there is a device. -/
theorem State.device_of_lt {s : State} {d : DevId} (h : d.toNat < s.devices.length) : ∃ dev, s.device d = some dev :=
  ⟨_, List.getElem?_eq_getElem h⟩

/-- An update that leaves `devices` alone leaves every device alone. -/
theorem State.device_congr {s t : State} (h : t.devices = s.devices) (d : DevId) : t.device d = s.device d := by
  rw [State.device_eq, State.device_eq, h]

/-- The device put is the device there. -/
theorem State.device_putDevice_same {s : State} {d : DevId} {old : Device} (h : s.device d = some old) (dev : Device) :
    (s.putDevice d dev).device d = some dev := by
  rw [State.device_eq, State.putDevice_devices, List.getElem?_set_self (State.lt_ndev_of_device h)]

/-- Every other device is as it was. -/
theorem State.device_putDevice_other {s : State} {d d' : DevId} (h : d' ≠ d) (dev : Device) :
    (s.putDevice d dev).device d' = s.device d' := by
  have hn : d.toNat ≠ d'.toNat := fun e => h (BitVec.eq_of_toNat_eq e.symm)
  rw [State.device_eq, State.putDevice_devices, List.getElem?_set_ne hn, State.device_eq]

/-- A state's runs are refuted by what its latch and its ended runs hold, and by nothing else. -/
theorem State.refuted_congr {s t : State} (hf : t.fault = s.fault) (he : t.endedRuns = s.endedRuns) :
    t.refuted ↔ s.refuted := by
  unfold State.refuted
  rw [hf, he]

/-- A reset refutes no run and undoes no refutation. -/
theorem resetBlock_refuted : (resetBlock s).refuted ↔ s.refuted := by
  unfold State.refuted
  rw [resetBlock_fault, resetBlock_endedRuns]
  cases s.fault <;> simp

/-- A fault taken refutes the run. -/
theorem takeFault_refuted (r : FaultRecord) : (takeFault r s).refuted := .inl (by simp)

/-- A fault taken responds, latches, and does nothing else. -/
theorem takeFault_eq (r : FaultRecord) :
    takeFault r s = { s with fault := some r, responses := .fault r :: s.responses } := rfl

/-- While the latch is clear the guard lets the operation through. -/
theorem unlessFaulted_clear {s : State} (h : s.fault = none) (go : Host.Outcome State Fault Refusal) :
    unlessFaulted s go = go := by
  unfold unlessFaulted
  rw [h]

/-- While the latch is set the guard answers with it. -/
theorem unlessFaulted_set {s : State} {r : FaultRecord} (h : s.fault = some r)
    (go : Host.Outcome State Fault Refusal) : unlessFaulted s go = .next (s.respond (.fault r)) := by
  unfold unlessFaulted
  rw [h]

/-- What the guard can do. -/
theorem unlessFaulted_cases (go : Host.Outcome State Fault Refusal) :
    (s.fault = none ∧ unlessFaulted s go = go) ∨
      ∃ r, s.fault = some r ∧ unlessFaulted s go = .next (s.respond (.fault r)) := by
  cases h : s.fault with
  | none => exact .inl ⟨rfl, unlessFaulted_clear h go⟩
  | some r => exact .inr ⟨r, rfl, unlessFaulted_set h go⟩

end Sys2Proof.Machine
end

