-- ==== Sys2Proof/Laws/Codec.lean ====
section
/-! SUPPORT. The codec: words as numbers, the fields of a request word, the region row of each address range. -/

namespace Sys2Proof

/-! ### Words as numbers -/

/-- An append as a number. -/
theorem toNat_append_add {m n : Nat} (x : BitVec m) (y : BitVec n) : (x ++ y).toNat = x.toNat * 2 ^ n + y.toNat := by
  rw [BitVec.toNat_append, ← Nat.shiftLeft_add_eq_or_of_lt y.isLt, Nat.shiftLeft_eq]

/-- A field as a number. -/
theorem toNat_field {m : Nat} (x : BitVec m) (lo n : Nat) : (x.extractLsb' lo n).toNat = x.toNat / 2 ^ lo % 2 ^ n := by
  rw [BitVec.extractLsb'_toNat, Nat.shiftRight_eq_div_pow]

/-! ### Kind codes -/

@[simp] theorem Kind.ofCode_code (k : Kind) : Kind.ofCode k.code = k := by
  cases k <;> decide

@[simp] theorem Kind.code_ofCode (c : BitVec 2) : (Kind.ofCode c).code = c := by
  revert c
  decide

/-! ### Request words -/

/-- The fields of a word put together from fields. -/
theorem request_fields (op kind : BitVec 2) (rsv : BitVec 4) (a : Address) (x : Byte) :
    reqOp (op ++ kind ++ rsv ++ a ++ x) = op ∧ reqKind (op ++ kind ++ rsv ++ a ++ x) = kind ∧
      (op ++ kind ++ rsv ++ a ++ x).extractLsb' 24 4 = rsv ∧
      reqAddr (op ++ kind ++ rsv ++ a ++ x) = a ∧ reqData (op ++ kind ++ rsv ++ a ++ x) = x := by
  have := op.isLt
  have := kind.isLt
  have := rsv.isLt
  have := a.isLt
  have := x.isLt
  unfold reqOp reqKind reqAddr reqData
  refine ⟨?_, ?_, ?_, ?_, ?_⟩ <;> apply BitVec.eq_of_toNat_eq <;> simp only [toNat_field, toNat_append_add] <;> omega

/-- Every word is its fields put together. -/
theorem request_eq_fields (w : BitVec 32) :
    w = reqOp w ++ reqKind w ++ w.extractLsb' 24 4 ++ reqAddr w ++ reqData w := by
  have := w.isLt
  unfold reqOp reqKind reqAddr reqData
  apply BitVec.eq_of_toNat_eq
  simp only [toNat_field, toNat_append_add]
  omega

/-- Two words are equal when their fields are. -/
theorem request_ext {w w' : BitVec 32} (hop : reqOp w = reqOp w') (hk : reqKind w = reqKind w')
    (hr : w.extractLsb' 24 4 = w'.extractLsb' 24 4) (ha : reqAddr w = reqAddr w') (hx : reqData w = reqData w') :
    w = w' := by
  rw [request_eq_fields w, request_eq_fields w', hop, hk, hr, ha, hx]

/-- An operation code is one of four. -/
theorem op_cases (c : BitVec 2) : c = 0b00#2 ∨ c = 0b01#2 ∨ c = 0b10#2 ∨ c = 0b11#2 := by
  revert c
  decide

/-! ### Region words -/

theorem addrInternalRAM_toNat (low : BitVec 13) : (addrInternalRAM low).toNat = 0x0000 + low.toNat := by
  simp only [addrInternalRAM, toNat_append_add, BitVec.toNat_ofNat]
  omega

theorem addrPPURegisters_toNat (low : BitVec 13) : (addrPPURegisters low).toNat = 0x2000 + low.toNat := by
  simp only [addrPPURegisters, toNat_append_add, BitVec.toNat_ofNat]
  omega

theorem addrAPUIORegisters_toNat (low : BitVec 5) : (addrAPUIORegisters low).toNat = 0x4000 + low.toNat := by
  simp only [addrAPUIORegisters, toNat_append_add, BitVec.toNat_ofNat]
  omega

theorem addrCartridge4020_toNat (low : BitVec 5) : (addrCartridge4020 low).toNat = 0x4020 + low.toNat := by
  simp only [addrCartridge4020, toNat_append_add, BitVec.toNat_ofNat]
  omega

theorem addrCartridge4040_toNat (low : BitVec 6) : (addrCartridge4040 low).toNat = 0x4040 + low.toNat := by
  simp only [addrCartridge4040, toNat_append_add, BitVec.toNat_ofNat]
  omega

theorem addrCartridge4080_toNat (low : BitVec 7) : (addrCartridge4080 low).toNat = 0x4080 + low.toNat := by
  simp only [addrCartridge4080, toNat_append_add, BitVec.toNat_ofNat]
  omega

theorem addrCartridge4100_toNat (low : BitVec 8) : (addrCartridge4100 low).toNat = 0x4100 + low.toNat := by
  simp only [addrCartridge4100, toNat_append_add, BitVec.toNat_ofNat]
  omega

theorem addrCartridge4200_toNat (low : BitVec 9) : (addrCartridge4200 low).toNat = 0x4200 + low.toNat := by
  simp only [addrCartridge4200, toNat_append_add, BitVec.toNat_ofNat]
  omega

theorem addrCartridge4400_toNat (low : BitVec 10) : (addrCartridge4400 low).toNat = 0x4400 + low.toNat := by
  simp only [addrCartridge4400, toNat_append_add, BitVec.toNat_ofNat]
  omega

theorem addrCartridge4800_toNat (low : BitVec 11) : (addrCartridge4800 low).toNat = 0x4800 + low.toNat := by
  simp only [addrCartridge4800, toNat_append_add, BitVec.toNat_ofNat]
  omega

theorem addrCartridge5000_toNat (low : BitVec 12) : (addrCartridge5000 low).toNat = 0x5000 + low.toNat := by
  simp only [addrCartridge5000, toNat_append_add, BitVec.toNat_ofNat]
  omega

theorem addrCartridge6000_toNat (low : BitVec 13) : (addrCartridge6000 low).toNat = 0x6000 + low.toNat := by
  simp only [addrCartridge6000, toNat_append_add, BitVec.toNat_ofNat]
  omega

theorem addrCartridge8000_toNat (low : BitVec 15) : (addrCartridge8000 low).toNat = 0x8000 + low.toNat := by
  simp only [addrCartridge8000, toNat_append_add, BitVec.toNat_ofNat]
  omega

/-- What the region decoder reads from an address: the row whose range it lies in, with the low bits, and the address is that
row's address of those low bits. -/
theorem decodeRegion_cases (a : Address) :
    (∃ low, a = addrInternalRAM low ∧ decodeRegion a = .regionInternalRAM low) ∨
    (∃ low, a = addrPPURegisters low ∧ decodeRegion a = .regionPPURegisters low) ∨
    (∃ low, a = addrAPUIORegisters low ∧ decodeRegion a = .regionAPUIORegisters low) ∨
    (∃ low, a = addrCartridge4020 low ∧ decodeRegion a = .regionCartridge4020 low) ∨
    (∃ low, a = addrCartridge4040 low ∧ decodeRegion a = .regionCartridge4040 low) ∨
    (∃ low, a = addrCartridge4080 low ∧ decodeRegion a = .regionCartridge4080 low) ∨
    (∃ low, a = addrCartridge4100 low ∧ decodeRegion a = .regionCartridge4100 low) ∨
    (∃ low, a = addrCartridge4200 low ∧ decodeRegion a = .regionCartridge4200 low) ∨
    (∃ low, a = addrCartridge4400 low ∧ decodeRegion a = .regionCartridge4400 low) ∨
    (∃ low, a = addrCartridge4800 low ∧ decodeRegion a = .regionCartridge4800 low) ∨
    (∃ low, a = addrCartridge5000 low ∧ decodeRegion a = .regionCartridge5000 low) ∨
    (∃ low, a = addrCartridge6000 low ∧ decodeRegion a = .regionCartridge6000 low) ∨
    (∃ low, a = addrCartridge8000 low ∧ decodeRegion a = .regionCartridge8000 low) := by
  have ha := a.isLt
  by_cases h0 : a.toNat < 0x2000
  · refine .inl ⟨a.extractLsb' 0 13, ?_, ?_⟩
    · apply BitVec.eq_of_toNat_eq
      rw [addrInternalRAM_toNat, toNat_field]
      omega
    · unfold decodeRegion
      rw [if_pos (by apply BitVec.eq_of_toNat_eq; simp only [toNat_field, BitVec.toNat_ofNat]; omega)]
  by_cases h1 : a.toNat < 0x4000
  · refine .inr (.inl ⟨a.extractLsb' 0 13, ?_, ?_⟩)
    · apply BitVec.eq_of_toNat_eq
      rw [addrPPURegisters_toNat, toNat_field]
      omega
    · unfold decodeRegion
      rw [if_neg (by simp only [← BitVec.toNat_inj, toNat_field, BitVec.toNat_ofNat]; omega)]
      rw [if_pos (by apply BitVec.eq_of_toNat_eq; simp only [toNat_field, BitVec.toNat_ofNat]; omega)]
  by_cases h2 : a.toNat < 0x4020
  · refine .inr (.inr (.inl ⟨a.extractLsb' 0 5, ?_, ?_⟩))
    · apply BitVec.eq_of_toNat_eq
      rw [addrAPUIORegisters_toNat, toNat_field]
      omega
    · unfold decodeRegion
      rw [if_neg (by simp only [← BitVec.toNat_inj, toNat_field, BitVec.toNat_ofNat]; omega)]
      rw [if_neg (by simp only [← BitVec.toNat_inj, toNat_field, BitVec.toNat_ofNat]; omega)]
      rw [if_pos (by apply BitVec.eq_of_toNat_eq; simp only [toNat_field, BitVec.toNat_ofNat]; omega)]
  by_cases h3 : a.toNat < 0x4040
  · refine .inr (.inr (.inr (.inl ⟨a.extractLsb' 0 5, ?_, ?_⟩)))
    · apply BitVec.eq_of_toNat_eq
      rw [addrCartridge4020_toNat, toNat_field]
      omega
    · unfold decodeRegion
      rw [if_neg (by simp only [← BitVec.toNat_inj, toNat_field, BitVec.toNat_ofNat]; omega)]
      rw [if_neg (by simp only [← BitVec.toNat_inj, toNat_field, BitVec.toNat_ofNat]; omega)]
      rw [if_neg (by simp only [← BitVec.toNat_inj, toNat_field, BitVec.toNat_ofNat]; omega)]
      rw [if_pos (by apply BitVec.eq_of_toNat_eq; simp only [toNat_field, BitVec.toNat_ofNat]; omega)]
  by_cases h4 : a.toNat < 0x4080
  · refine .inr (.inr (.inr (.inr (.inl ⟨a.extractLsb' 0 6, ?_, ?_⟩))))
    · apply BitVec.eq_of_toNat_eq
      rw [addrCartridge4040_toNat, toNat_field]
      omega
    · unfold decodeRegion
      rw [if_neg (by simp only [← BitVec.toNat_inj, toNat_field, BitVec.toNat_ofNat]; omega)]
      rw [if_neg (by simp only [← BitVec.toNat_inj, toNat_field, BitVec.toNat_ofNat]; omega)]
      rw [if_neg (by simp only [← BitVec.toNat_inj, toNat_field, BitVec.toNat_ofNat]; omega)]
      rw [if_neg (by simp only [← BitVec.toNat_inj, toNat_field, BitVec.toNat_ofNat]; omega)]
      rw [if_pos (by apply BitVec.eq_of_toNat_eq; simp only [toNat_field, BitVec.toNat_ofNat]; omega)]
  by_cases h5 : a.toNat < 0x4100
  · refine .inr (.inr (.inr (.inr (.inr (.inl ⟨a.extractLsb' 0 7, ?_, ?_⟩)))))
    · apply BitVec.eq_of_toNat_eq
      rw [addrCartridge4080_toNat, toNat_field]
      omega
    · unfold decodeRegion
      rw [if_neg (by simp only [← BitVec.toNat_inj, toNat_field, BitVec.toNat_ofNat]; omega)]
      rw [if_neg (by simp only [← BitVec.toNat_inj, toNat_field, BitVec.toNat_ofNat]; omega)]
      rw [if_neg (by simp only [← BitVec.toNat_inj, toNat_field, BitVec.toNat_ofNat]; omega)]
      rw [if_neg (by simp only [← BitVec.toNat_inj, toNat_field, BitVec.toNat_ofNat]; omega)]
      rw [if_neg (by simp only [← BitVec.toNat_inj, toNat_field, BitVec.toNat_ofNat]; omega)]
      rw [if_pos (by apply BitVec.eq_of_toNat_eq; simp only [toNat_field, BitVec.toNat_ofNat]; omega)]
  by_cases h6 : a.toNat < 0x4200
  · refine .inr (.inr (.inr (.inr (.inr (.inr (.inl ⟨a.extractLsb' 0 8, ?_, ?_⟩))))))
    · apply BitVec.eq_of_toNat_eq
      rw [addrCartridge4100_toNat, toNat_field]
      omega
    · unfold decodeRegion
      rw [if_neg (by simp only [← BitVec.toNat_inj, toNat_field, BitVec.toNat_ofNat]; omega)]
      rw [if_neg (by simp only [← BitVec.toNat_inj, toNat_field, BitVec.toNat_ofNat]; omega)]
      rw [if_neg (by simp only [← BitVec.toNat_inj, toNat_field, BitVec.toNat_ofNat]; omega)]
      rw [if_neg (by simp only [← BitVec.toNat_inj, toNat_field, BitVec.toNat_ofNat]; omega)]
      rw [if_neg (by simp only [← BitVec.toNat_inj, toNat_field, BitVec.toNat_ofNat]; omega)]
      rw [if_neg (by simp only [← BitVec.toNat_inj, toNat_field, BitVec.toNat_ofNat]; omega)]
      rw [if_pos (by apply BitVec.eq_of_toNat_eq; simp only [toNat_field, BitVec.toNat_ofNat]; omega)]
  by_cases h7 : a.toNat < 0x4400
  · refine .inr (.inr (.inr (.inr (.inr (.inr (.inr (.inl ⟨a.extractLsb' 0 9, ?_, ?_⟩)))))))
    · apply BitVec.eq_of_toNat_eq
      rw [addrCartridge4200_toNat, toNat_field]
      omega
    · unfold decodeRegion
      rw [if_neg (by simp only [← BitVec.toNat_inj, toNat_field, BitVec.toNat_ofNat]; omega)]
      rw [if_neg (by simp only [← BitVec.toNat_inj, toNat_field, BitVec.toNat_ofNat]; omega)]
      rw [if_neg (by simp only [← BitVec.toNat_inj, toNat_field, BitVec.toNat_ofNat]; omega)]
      rw [if_neg (by simp only [← BitVec.toNat_inj, toNat_field, BitVec.toNat_ofNat]; omega)]
      rw [if_neg (by simp only [← BitVec.toNat_inj, toNat_field, BitVec.toNat_ofNat]; omega)]
      rw [if_neg (by simp only [← BitVec.toNat_inj, toNat_field, BitVec.toNat_ofNat]; omega)]
      rw [if_neg (by simp only [← BitVec.toNat_inj, toNat_field, BitVec.toNat_ofNat]; omega)]
      rw [if_pos (by apply BitVec.eq_of_toNat_eq; simp only [toNat_field, BitVec.toNat_ofNat]; omega)]
  by_cases h8 : a.toNat < 0x4800
  · refine .inr (.inr (.inr (.inr (.inr (.inr (.inr (.inr (.inl ⟨a.extractLsb' 0 10, ?_, ?_⟩))))))))
    · apply BitVec.eq_of_toNat_eq
      rw [addrCartridge4400_toNat, toNat_field]
      omega
    · unfold decodeRegion
      rw [if_neg (by simp only [← BitVec.toNat_inj, toNat_field, BitVec.toNat_ofNat]; omega)]
      rw [if_neg (by simp only [← BitVec.toNat_inj, toNat_field, BitVec.toNat_ofNat]; omega)]
      rw [if_neg (by simp only [← BitVec.toNat_inj, toNat_field, BitVec.toNat_ofNat]; omega)]
      rw [if_neg (by simp only [← BitVec.toNat_inj, toNat_field, BitVec.toNat_ofNat]; omega)]
      rw [if_neg (by simp only [← BitVec.toNat_inj, toNat_field, BitVec.toNat_ofNat]; omega)]
      rw [if_neg (by simp only [← BitVec.toNat_inj, toNat_field, BitVec.toNat_ofNat]; omega)]
      rw [if_neg (by simp only [← BitVec.toNat_inj, toNat_field, BitVec.toNat_ofNat]; omega)]
      rw [if_neg (by simp only [← BitVec.toNat_inj, toNat_field, BitVec.toNat_ofNat]; omega)]
      rw [if_pos (by apply BitVec.eq_of_toNat_eq; simp only [toNat_field, BitVec.toNat_ofNat]; omega)]
  by_cases h9 : a.toNat < 0x5000
  · refine .inr (.inr (.inr (.inr (.inr (.inr (.inr (.inr (.inr (.inl ⟨a.extractLsb' 0 11, ?_, ?_⟩)))))))))
    · apply BitVec.eq_of_toNat_eq
      rw [addrCartridge4800_toNat, toNat_field]
      omega
    · unfold decodeRegion
      rw [if_neg (by simp only [← BitVec.toNat_inj, toNat_field, BitVec.toNat_ofNat]; omega)]
      rw [if_neg (by simp only [← BitVec.toNat_inj, toNat_field, BitVec.toNat_ofNat]; omega)]
      rw [if_neg (by simp only [← BitVec.toNat_inj, toNat_field, BitVec.toNat_ofNat]; omega)]
      rw [if_neg (by simp only [← BitVec.toNat_inj, toNat_field, BitVec.toNat_ofNat]; omega)]
      rw [if_neg (by simp only [← BitVec.toNat_inj, toNat_field, BitVec.toNat_ofNat]; omega)]
      rw [if_neg (by simp only [← BitVec.toNat_inj, toNat_field, BitVec.toNat_ofNat]; omega)]
      rw [if_neg (by simp only [← BitVec.toNat_inj, toNat_field, BitVec.toNat_ofNat]; omega)]
      rw [if_neg (by simp only [← BitVec.toNat_inj, toNat_field, BitVec.toNat_ofNat]; omega)]
      rw [if_neg (by simp only [← BitVec.toNat_inj, toNat_field, BitVec.toNat_ofNat]; omega)]
      rw [if_pos (by apply BitVec.eq_of_toNat_eq; simp only [toNat_field, BitVec.toNat_ofNat]; omega)]
  by_cases h10 : a.toNat < 0x6000
  · refine .inr (.inr (.inr (.inr (.inr (.inr (.inr (.inr (.inr (.inr (.inl ⟨a.extractLsb' 0 12, ?_, ?_⟩))))))))))
    · apply BitVec.eq_of_toNat_eq
      rw [addrCartridge5000_toNat, toNat_field]
      omega
    · unfold decodeRegion
      rw [if_neg (by simp only [← BitVec.toNat_inj, toNat_field, BitVec.toNat_ofNat]; omega)]
      rw [if_neg (by simp only [← BitVec.toNat_inj, toNat_field, BitVec.toNat_ofNat]; omega)]
      rw [if_neg (by simp only [← BitVec.toNat_inj, toNat_field, BitVec.toNat_ofNat]; omega)]
      rw [if_neg (by simp only [← BitVec.toNat_inj, toNat_field, BitVec.toNat_ofNat]; omega)]
      rw [if_neg (by simp only [← BitVec.toNat_inj, toNat_field, BitVec.toNat_ofNat]; omega)]
      rw [if_neg (by simp only [← BitVec.toNat_inj, toNat_field, BitVec.toNat_ofNat]; omega)]
      rw [if_neg (by simp only [← BitVec.toNat_inj, toNat_field, BitVec.toNat_ofNat]; omega)]
      rw [if_neg (by simp only [← BitVec.toNat_inj, toNat_field, BitVec.toNat_ofNat]; omega)]
      rw [if_neg (by simp only [← BitVec.toNat_inj, toNat_field, BitVec.toNat_ofNat]; omega)]
      rw [if_neg (by simp only [← BitVec.toNat_inj, toNat_field, BitVec.toNat_ofNat]; omega)]
      rw [if_pos (by apply BitVec.eq_of_toNat_eq; simp only [toNat_field, BitVec.toNat_ofNat]; omega)]
  by_cases h11 : a.toNat < 0x8000
  · refine .inr (.inr (.inr (.inr (.inr (.inr (.inr (.inr (.inr (.inr (.inr (.inl ⟨a.extractLsb' 0 13, ?_, ?_⟩)))))))))))
    · apply BitVec.eq_of_toNat_eq
      rw [addrCartridge6000_toNat, toNat_field]
      omega
    · unfold decodeRegion
      rw [if_neg (by simp only [← BitVec.toNat_inj, toNat_field, BitVec.toNat_ofNat]; omega)]
      rw [if_neg (by simp only [← BitVec.toNat_inj, toNat_field, BitVec.toNat_ofNat]; omega)]
      rw [if_neg (by simp only [← BitVec.toNat_inj, toNat_field, BitVec.toNat_ofNat]; omega)]
      rw [if_neg (by simp only [← BitVec.toNat_inj, toNat_field, BitVec.toNat_ofNat]; omega)]
      rw [if_neg (by simp only [← BitVec.toNat_inj, toNat_field, BitVec.toNat_ofNat]; omega)]
      rw [if_neg (by simp only [← BitVec.toNat_inj, toNat_field, BitVec.toNat_ofNat]; omega)]
      rw [if_neg (by simp only [← BitVec.toNat_inj, toNat_field, BitVec.toNat_ofNat]; omega)]
      rw [if_neg (by simp only [← BitVec.toNat_inj, toNat_field, BitVec.toNat_ofNat]; omega)]
      rw [if_neg (by simp only [← BitVec.toNat_inj, toNat_field, BitVec.toNat_ofNat]; omega)]
      rw [if_neg (by simp only [← BitVec.toNat_inj, toNat_field, BitVec.toNat_ofNat]; omega)]
      rw [if_neg (by simp only [← BitVec.toNat_inj, toNat_field, BitVec.toNat_ofNat]; omega)]
      rw [if_pos (by apply BitVec.eq_of_toNat_eq; simp only [toNat_field, BitVec.toNat_ofNat]; omega)]
  refine .inr (.inr (.inr (.inr (.inr (.inr (.inr (.inr (.inr (.inr (.inr (.inr ⟨a.extractLsb' 0 15, ?_, ?_⟩)))))))))))
  · apply BitVec.eq_of_toNat_eq
    rw [addrCartridge8000_toNat, toNat_field]
    omega
  · unfold decodeRegion
    rw [if_neg (by simp only [← BitVec.toNat_inj, toNat_field, BitVec.toNat_ofNat]; omega)]
    rw [if_neg (by simp only [← BitVec.toNat_inj, toNat_field, BitVec.toNat_ofNat]; omega)]
    rw [if_neg (by simp only [← BitVec.toNat_inj, toNat_field, BitVec.toNat_ofNat]; omega)]
    rw [if_neg (by simp only [← BitVec.toNat_inj, toNat_field, BitVec.toNat_ofNat]; omega)]
    rw [if_neg (by simp only [← BitVec.toNat_inj, toNat_field, BitVec.toNat_ofNat]; omega)]
    rw [if_neg (by simp only [← BitVec.toNat_inj, toNat_field, BitVec.toNat_ofNat]; omega)]
    rw [if_neg (by simp only [← BitVec.toNat_inj, toNat_field, BitVec.toNat_ofNat]; omega)]
    rw [if_neg (by simp only [← BitVec.toNat_inj, toNat_field, BitVec.toNat_ofNat]; omega)]
    rw [if_neg (by simp only [← BitVec.toNat_inj, toNat_field, BitVec.toNat_ofNat]; omega)]
    rw [if_neg (by simp only [← BitVec.toNat_inj, toNat_field, BitVec.toNat_ofNat]; omega)]
    rw [if_neg (by simp only [← BitVec.toNat_inj, toNat_field, BitVec.toNat_ofNat]; omega)]
    rw [if_neg (by simp only [← BitVec.toNat_inj, toNat_field, BitVec.toNat_ofNat]; omega)]

/-- Encoding what the region decoder reads gives the address back. -/
theorem encode_decodeRegion (a : Address) : encode (decodeRegion a) = .address a := by
  rcases decodeRegion_cases a with ⟨low, e, h⟩ | ⟨low, e, h⟩ | ⟨low, e, h⟩ | ⟨low, e, h⟩ | ⟨low, e, h⟩ | ⟨low, e, h⟩ | ⟨low, e, h⟩ | ⟨low, e, h⟩ | ⟨low, e, h⟩ | ⟨low, e, h⟩ | ⟨low, e, h⟩ | ⟨low, e, h⟩ | ⟨low, e, h⟩ <;> rw [h, e] <;> rfl

end Sys2Proof
end

