-- ==== Sys2Proof/Laws/Address.lean ====
section
/-! SUPPORT. What the address decoder yields, by range. -/

namespace Sys2Proof.Machine

/-- `decode(a)` is one of the four region rules, by the range the address lies in. -/
theorem decodeAddress_cases (a : Address) :
    (a.toNat ≤ 0x1FFF ∧ decodeAddress a = ⟨.internalRAM, BitVec.ofNat 16 (a.toNat % 0x0800)⟩) ∨
    (0x2000 ≤ a.toNat ∧ a.toNat ≤ 0x3FFF ∧ decodeAddress a = ⟨.ppuRegisters, BitVec.ofNat 16 (a.toNat % 0x0008)⟩) ∨
    (0x4000 ≤ a.toNat ∧ a.toNat ≤ 0x401F ∧ decodeAddress a = ⟨.apuIORegisters, BitVec.ofNat 16 (a.toNat - 0x4000)⟩) ∨
    (0x4020 ≤ a.toNat ∧ decodeAddress a = ⟨.cartridge, BitVec.ofNat 16 (a.toNat - 0x4020)⟩) := by
  have ha := a.isLt
  have hram : a % 0x0800#16 = BitVec.ofNat 16 (a.toNat % 0x0800) :=
    BitVec.eq_of_toNat_eq (by rw [BitVec.toNat_umod, BitVec.toNat_ofNat, BitVec.toNat_ofNat]; norm_num; omega)
  have hppu : a % 0x0008#16 = BitVec.ofNat 16 (a.toNat % 0x0008) :=
    BitVec.eq_of_toNat_eq (by rw [BitVec.toNat_umod, BitVec.toNat_ofNat, BitVec.toNat_ofNat]; norm_num; omega)
  have hsub : ∀ b : Address, b.toNat ≤ a.toNat → a - b = BitVec.ofNat 16 (a.toNat - b.toNat) := fun b hb =>
    BitVec.eq_of_toNat_eq (by rw [BitVec.toNat_sub, BitVec.toNat_ofNat]; have := b.isLt; omega)
  unfold decodeAddress
  rw [hram, hppu]
  simp only [BitVec.le_def, BitVec.toNat_ofNat]
  by_cases h1 : a.toNat ≤ 0x1FFF
  · exact .inl ⟨h1, if_pos h1⟩
  by_cases h2 : a.toNat ≤ 0x3FFF
  · exact .inr (.inl ⟨by omega, h2, (if_neg h1).trans (if_pos h2)⟩)
  by_cases h3 : a.toNat ≤ 0x401F
  · exact .inr (.inr (.inl ⟨by omega, h3, ((if_neg h1).trans ((if_neg h2).trans (if_pos h3))).trans
      (congrArg _ (hsub 0x4000#16 (by show 0x4000 ≤ a.toNat; omega)))⟩))
  · exact .inr (.inr (.inr ⟨by omega, ((if_neg h1).trans ((if_neg h2).trans (if_neg h3))).trans
      (congrArg _ (hsub 0x4020#16 (by show 0x4020 ≤ a.toNat; omega)))⟩))

/-- `decode` in RAM. -/
theorem decodeAddress_ram {a : Address} (h : a.toNat ≤ 0x1FFF) :
    decodeAddress a = ⟨.internalRAM, BitVec.ofNat 16 (a.toNat % 0x0800)⟩ := by
  rcases decodeAddress_cases a with ⟨_, e⟩ | ⟨h1, _, _⟩ | ⟨h1, _, _⟩ | ⟨h1, _⟩
  · exact e
  all_goals omega

/-- `decode` in the PPU registers. -/
theorem decodeAddress_ppu {a : Address} (h : 0x2000 ≤ a.toNat) (h' : a.toNat ≤ 0x3FFF) :
    decodeAddress a = ⟨.ppuRegisters, BitVec.ofNat 16 (a.toNat % 0x0008)⟩ := by
  rcases decodeAddress_cases a with ⟨_, _⟩ | ⟨_, _, e⟩ | ⟨h1, _, _⟩ | ⟨h1, _⟩
  · omega
  · exact e
  all_goals omega

/-- `decode` in the APU and I/O registers. -/
theorem decodeAddress_apu {a : Address} (h : 0x4000 ≤ a.toNat) (h' : a.toNat ≤ 0x401F) :
    decodeAddress a = ⟨.apuIORegisters, BitVec.ofNat 16 (a.toNat - 0x4000)⟩ := by
  rcases decodeAddress_cases a with ⟨_, _⟩ | ⟨_, _, _⟩ | ⟨_, _, e⟩ | ⟨h1, _⟩
  · omega
  · omega
  · exact e
  · omega

/-- `decode` in the cartridge. -/
theorem decodeAddress_cartridge {a : Address} (h : 0x4020 ≤ a.toNat) :
    decodeAddress a = ⟨.cartridge, BitVec.ofNat 16 (a.toNat - 0x4020)⟩ := by
  rcases decodeAddress_cases a with ⟨_, _⟩ | ⟨_, _, _⟩ | ⟨_, _, _⟩ | ⟨_, e⟩
  · omega
  · omega
  · omega
  · exact e

end Sys2Proof.Machine
end

