-- ==== Sys2Proof/Laws/Memory.lean ====
section
/-! SUPPORT. The laws of stored bytes and of the device table: read after write, the canonical form, bind and get. -/

namespace Sys2Proof.Machine

/-- A read after a write to the same address gives the value written. -/
theorem Memory.read_write_same (m : Memory) (a : Nat) (v : Byte) : Memory.read (Memory.write m a v) a = some v := by
  induction m with
  | nil => simp [Memory.write, Memory.read]
  | cons c m ih =>
    obtain ⟨b, x⟩ := c
    rw [Memory.write]
    split
    · simp [Memory.read]
    · split
      · simp [Memory.read]
      · rename_i _ hne
        simp [Memory.read, hne, ih]

/-- A write leaves every other address alone. -/
theorem Memory.read_write_other (m : Memory) {a a' : Nat} (h : a' ≠ a) (v : Byte) :
    Memory.read (Memory.write m a v) a' = Memory.read m a' := by
  induction m with
  | nil => simp [Memory.write, Memory.read, h]
  | cons c m ih =>
    obtain ⟨b, x⟩ := c
    rw [Memory.write]
    split
    · simp [Memory.read, h]
    · split
      · rename_i _ hab
        subst hab
        simp [Memory.read, h]
      · simp [Memory.read, ih]

/-- The cells of a memory after a write are old cells or the one written. -/
theorem Memory.mem_write {m : Memory} {a : Nat} {v : Byte} {c : Host.Cell} (h : c ∈ Memory.write m a v) :
    c = (a, v) ∨ c ∈ m := by
  induction m with
  | nil => exact .inl (by simpa [Memory.write] using h)
  | cons c' m ih =>
    obtain ⟨b, x⟩ := c'
    rw [Memory.write] at h
    split at h
    · rcases List.mem_cons.1 h with h | h
      · exact .inl h
      · exact .inr h
    · split at h
      · rcases List.mem_cons.1 h with h | h
        · exact .inl h
        · exact .inr (List.mem_cons_of_mem _ h)
      · rcases List.mem_cons.1 h with h | h
        · exact .inr (h ▸ List.mem_cons_self)
        · exact (ih h).imp_right (List.mem_cons_of_mem _)

/-- A write keeps the canonical form. -/
theorem Memory.wf_write {m : Memory} (h : m.wf) (a : Nat) (v : Byte) : (Memory.write m a v).wf := by
  induction m with
  | nil => simp [Memory.write, Memory.wf]
  | cons c m ih =>
    obtain ⟨b, x⟩ := c
    obtain ⟨hb, hm⟩ := List.pairwise_cons.1 h
    rw [Memory.write]
    split
    · rename_i hlt
      refine List.pairwise_cons.2 ⟨fun c hc => ?_, h⟩
      rcases List.mem_cons.1 hc with rfl | hc
      · exact hlt
      · exact hlt.trans (hb c hc)
    · split
      · rename_i _ hab
        subst hab
        exact List.pairwise_cons.2 ⟨hb, hm⟩
      · rename_i hnlt hne
        refine List.pairwise_cons.2 ⟨fun c hc => ?_, ih hm⟩
        rcases Memory.mem_write hc with rfl | hc
        · exact lt_of_le_of_ne (Nat.le_of_not_lt hnlt) (Ne.symm hne)
        · exact hb c hc

/-- Reset's memories are canonical: every device of its pool is well formed. -/
theorem resetPool_wf : ∀ dev ∈ resetPool, dev.wf := by
  intro dev hdev
  rcases List.mem_cons.1 hdev with rfl | h
  · exact ⟨List.Pairwise.nil, by simp⟩
  · rw [(List.mem_replicate.1 h).2]
    trivial

/-! ### The device table -/

@[simp] theorem DeviceTable.get_empty (k : Kind) : DeviceTable.empty.get k = none := by
  cases k <;> rfl

@[simp] theorem DeviceTable.get_bind_same (t : DeviceTable) (k : Kind) (d : DevId) : (t.bind k d).get k = some d := by
  cases k <;> rfl

theorem DeviceTable.get_bind_other (t : DeviceTable) {k k' : Kind} (h : k' ≠ k) (d : DevId) :
    (t.bind k d).get k' = t.get k' := by
  cases k <;> cases k' <;> first | rfl | exact absurd rfl h

/-- A slot after a bind: the device bound, or what it was. -/
theorem DeviceTable.get_bind (t : DeviceTable) (k k' : Kind) (d : DevId) :
    (t.bind k d).get k' = if k' = k then some d else t.get k' := by
  split
  · rename_i h
    rw [h, DeviceTable.get_bind_same]
  · rename_i h
    rw [DeviceTable.get_bind_other t h]

end Sys2Proof.Machine
end

