-- ==== Sys2Proof/Laws/Devices.lean ====
section
/-! SUPPORT. What one device exchange can do: the device it leaves, the state it leaves. -/

namespace Sys2Proof.Machine

/-! ### Devices -/

/-- A read exchange keeps the sort of the device. -/
@[simp] theorem deviceRead_sort (d : DevId) (n : Nat) (o : Offset) (dev : Device) :
    (deviceRead d n o dev).1.sort = dev.sort := by
  cases dev <;> rfl

/-- A write exchange keeps the sort of the device. -/
@[simp] theorem deviceWrite_sort (d : DevId) (n : Nat) (o : Offset) (v : Byte) (dev : Device) :
    (deviceWrite d n o v dev).1.sort = dev.sort := by
  cases dev with
  | ram size mem =>
    rw [deviceWrite]
    split <;> rfl
  | trace c calls => rfl
  | external st => rfl

/-- A read exchange keeps a device well formed. -/
theorem deviceRead_wf (d : DevId) (n : Nat) (o : Offset) {dev : Device} (h : dev.wf) : (deviceRead d n o dev).1.wf := by
  cases dev <;> exact h

/-- A write exchange keeps a device well formed. -/
theorem deviceWrite_wf (d : DevId) (n : Nat) (o : Offset) (v : Byte) {dev : Device} (h : dev.wf) :
    (deviceWrite d n o v dev).1.wf := by
  cases dev with
  | ram size mem =>
    rw [deviceWrite]
    split
    · rename_i ho
      refine ⟨Memory.wf_write h.1 _ _, fun c hc => ?_⟩
      rcases Memory.mem_write hc with rfl | hc
      · exact ho
      · exact h.2 c hc
    · exact h
  | trace c calls => exact h
  | external st => exact h

/-- A RAM answers a read inside it with the byte it holds and is not changed. -/
theorem deviceRead_ram {size : Nat} {o : Offset} (h : o.toNat < size) (d : DevId) (n : Nat) (mem : Memory) :
    deviceRead d n o (.ram size mem) = (.ram size mem, .ok (ramByte d mem o)) := by
  simp [deviceRead, h]

/-- A RAM takes a write inside it. -/
theorem deviceWrite_ram {size : Nat} {o : Offset} (h : o.toNat < size) (d : DevId) (n : Nat) (v : Byte) (mem : Memory) :
    deviceWrite d n o v (.ram size mem) = (.ram size (Memory.write mem o.toNat v), .ok) := by
  simp [deviceWrite, h]

/-- The byte a RAM holds after a write to it. -/
theorem ramByte_write_same (d : DevId) (mem : Memory) (o : Offset) (v : Byte) :
    ramByte d (Memory.write mem o.toNat v) o = v := by
  simp [ramByte, Memory.read_write_same]

/-- Every other byte of the RAM is as it was. -/
theorem ramByte_write_other (d : DevId) (mem : Memory) {o o' : Offset} (h : o' ≠ o) (v : Byte) :
    ramByte d (Memory.write mem o.toNat v) o' = ramByte d mem o' := by
  have hn : o'.toNat ≠ o.toNat := fun e => h (BitVec.eq_of_toNat_eq e)
  simp [ramByte, Memory.read_write_other mem hn]

/-! ### DevRead and DevWrite -/

/-- The result of `DevRead` is the device's. -/
@[simp] theorem devRead_snd (k : Kind) (d : DevId) (dev : Device) (o : Offset) (s : State) :
    (devRead k d dev o s).2 = (deviceRead d s.draws o dev).2 := rfl

/-- Everything `DevRead` does to the state. -/
theorem devRead_fst (k : Kind) (d : DevId) (dev : Device) (o : Offset) (s : State) :
    (devRead k d dev o s).1 =
      { s with
        devices := s.devices.set d.toNat (deviceRead d s.draws o dev).1
        portLog := .read k d o (deviceRead d s.draws o dev).2 :: s.portLog
        draws := s.draws + drawsUsed dev } := rfl

/-- The result of `DevWrite` is the device's. -/
@[simp] theorem devWrite_snd (k : Kind) (d : DevId) (dev : Device) (o : Offset) (v : Byte) (s : State) :
    (devWrite k d dev o v s).2 = (deviceWrite d s.draws o v dev).2 := rfl

/-- Everything `DevWrite` does to the state. -/
theorem devWrite_fst (k : Kind) (d : DevId) (dev : Device) (o : Offset) (v : Byte) (s : State) :
    (devWrite k d dev o v s).1 =
      { s with
        devices := s.devices.set d.toNat (deviceWrite d s.draws o v dev).1
        portLog := .write k d o v (deviceWrite d s.draws o v dev).2 :: s.portLog
        draws := s.draws + drawsUsed dev } := rfl

/-- Putting back a device of the same sort leaves the pool as the host chose it. -/
theorem State.pool_putDevice {s : State} {d : DevId} {old dev : Device} (h : s.device d = some old)
    (hs : dev.sort = old.sort) : (s.putDevice d dev).pool = s.pool := by
  have hlt := State.lt_ndev_of_device h
  have hold : s.devices[d.toNat] = old := (List.getElem?_eq_some_iff.1 h).2
  unfold State.pool
  rw [State.putDevice_devices, List.map_set, hs, ← hold]
  apply List.ext_getElem (by simp)
  intro i h1 h2
  rw [List.getElem_set]
  split
  · rename_i e
    subst e
    simp
  · rfl

/-- Everything a device's own activity does to the state. -/
theorem deviceActivity_cases (d : DevId) (s : State) :
    deviceActivity d s = s ∨
      ∃ st, s.device d = some (.external st) ∧
        deviceActivity d s =
          { s with
            devices := s.devices.set d.toNat (.external (Config.externalActivity d st s.draws))
            draws := s.draws + 1 } := by
  unfold deviceActivity
  split
  · rename_i st h
    exact .inr ⟨st, h, rfl⟩
  · exact .inl rfl

end Sys2Proof.Machine
end

