-- ==== Sys2Proof/Laws/Exec.lean ====
section
/-! SUPPORT. Everything READ, WRITE, INSTALL, DECODE and the region rows can do, once; and what a step is. -/

namespace Sys2Proof.Machine

/-! ### The common path of READ and WRITE -/

/-- An empty slot raises ConfigurationError. -/
theorem withDevice_empty {a : Address} {s : State} (h : s.table.get (decodeAddress a).kind = none)
    (go : Target → DevId → Device → Host.Outcome State Fault Refusal) :
    withDevice a s go = .next (takeFault (.configurationError (decodeAddress a).kind (decodeAddress a).offset) s) := by
  unfold withDevice
  rw [h]

/-- A bound slot reaches its device. -/
theorem withDevice_bound {a : Address} {s : State} {d : DevId} {dev : Device}
    (h : s.table.get (decodeAddress a).kind = some d) (hd : s.device d = some dev)
    (go : Target → DevId → Device → Host.Outcome State Fault Refusal) :
    withDevice a s go = go (decodeAddress a) d dev := by
  unfold withDevice
  rw [h]
  simp only [hd]

/-- A slot that names no device stops the machine. -/
theorem withDevice_dangling {a : Address} {s : State} {d : DevId}
    (h : s.table.get (decodeAddress a).kind = some d) (hd : s.device d = none)
    (go : Target → DevId → Device → Host.Outcome State Fault Refusal) :
    withDevice a s go = .fault (.danglingSlot (decodeAddress a).kind d) := by
  unfold withDevice
  rw [h]
  simp only [hd]

/-- The path does one of three things. -/
theorem withDevice_cases (a : Address) (s : State) (go : Target → DevId → Device → Host.Outcome State Fault Refusal) :
    (s.table.get (decodeAddress a).kind = none ∧
      withDevice a s go =
        .next (takeFault (.configurationError (decodeAddress a).kind (decodeAddress a).offset) s)) ∨
    (∃ d dev, s.table.get (decodeAddress a).kind = some d ∧ s.device d = some dev ∧
      withDevice a s go = go (decodeAddress a) d dev) ∨
    (∃ d, s.table.get (decodeAddress a).kind = some d ∧ s.device d = none ∧
      withDevice a s go = .fault (.danglingSlot (decodeAddress a).kind d)) := by
  cases h : s.table.get (decodeAddress a).kind with
  | none => exact .inl ⟨rfl, withDevice_empty h go⟩
  | some d =>
    cases hd : s.device d with
    | none => exact .inr (.inr ⟨d, rfl, hd, withDevice_dangling h hd go⟩)
    | some dev => exact .inr (.inl ⟨d, dev, rfl, hd, withDevice_bound h hd go⟩)

/-- A READ that is performed on a bound slot, in one equation. -/
theorem execRead_bound {a : Address} {s : State} {d : DevId} {dev : Device} (hf : s.fault = none)
    (hk : s.table.get (decodeAddress a).kind = some d) (hd : s.device d = some dev) :
    execRead a s = .next (finishRead (decodeAddress a)
      (devRead (decodeAddress a).kind d dev (decodeAddress a).offset s)) := by
  unfold execRead
  rw [unlessFaulted_clear hf, withDevice_bound hk hd]

/-- A WRITE that is performed on a bound slot, in one equation. -/
theorem execWrite_bound {a : Address} {v : Byte} {s : State} {d : DevId} {dev : Device} (hf : s.fault = none)
    (hk : s.table.get (decodeAddress a).kind = some d) (hd : s.device d = some dev) :
    execWrite a v s = .next (finishWrite (decodeAddress a)
      (devWrite (decodeAddress a).kind d dev (decodeAddress a).offset v s)) := by
  unfold execWrite
  rw [unlessFaulted_clear hf, withDevice_bound hk hd]

/-- Everything a READ that answers a next state did. -/
theorem execRead_cases {a : Address} {s t : State} (h : execRead a s = .next t) :
    (∃ r, s.fault = some r ∧ t = s.respond (.fault r)) ∨
    (s.fault = none ∧ s.table.get (decodeAddress a).kind = none ∧
      t = takeFault (.configurationError (decodeAddress a).kind (decodeAddress a).offset) s) ∨
    (∃ d dev, s.fault = none ∧ s.table.get (decodeAddress a).kind = some d ∧ s.device d = some dev ∧
      t = finishRead (decodeAddress a) (devRead (decodeAddress a).kind d dev (decodeAddress a).offset s)) := by
  unfold execRead at h
  rcases unlessFaulted_cases s (withDevice a s fun t d dev => .next (finishRead t (devRead t.kind d dev t.offset s)))
    with ⟨hf, e⟩ | ⟨r, hf, e⟩
  · rw [e] at h
    rcases withDevice_cases a s (fun t d dev => .next (finishRead t (devRead t.kind d dev t.offset s)))
      with ⟨hk, e⟩ | ⟨d, dev, hk, hd, e⟩ | ⟨d, hk, hd, e⟩
    · rw [e] at h
      cases h
      exact .inr (.inl ⟨hf, hk, rfl⟩)
    · rw [e] at h
      cases h
      exact .inr (.inr ⟨d, dev, hf, hk, hd, rfl⟩)
    · rw [e] at h
      cases h
  · rw [e] at h
    cases h
    exact .inl ⟨r, hf, rfl⟩

/-- Everything a WRITE that answers a next state did. -/
theorem execWrite_cases {a : Address} {v : Byte} {s t : State} (h : execWrite a v s = .next t) :
    (∃ r, s.fault = some r ∧ t = s.respond (.fault r)) ∨
    (s.fault = none ∧ s.table.get (decodeAddress a).kind = none ∧
      t = takeFault (.configurationError (decodeAddress a).kind (decodeAddress a).offset) s) ∨
    (∃ d dev, s.fault = none ∧ s.table.get (decodeAddress a).kind = some d ∧ s.device d = some dev ∧
      t = finishWrite (decodeAddress a) (devWrite (decodeAddress a).kind d dev (decodeAddress a).offset v s)) := by
  unfold execWrite at h
  rcases unlessFaulted_cases s
      (withDevice a s fun t d dev => .next (finishWrite t (devWrite t.kind d dev t.offset v s)))
    with ⟨hf, e⟩ | ⟨r, hf, e⟩
  · rw [e] at h
    rcases withDevice_cases a s (fun t d dev => .next (finishWrite t (devWrite t.kind d dev t.offset v s)))
      with ⟨hk, e⟩ | ⟨d, dev, hk, hd, e⟩ | ⟨d, hk, hd, e⟩
    · rw [e] at h
      cases h
      exact .inr (.inl ⟨hf, hk, rfl⟩)
    · rw [e] at h
      cases h
      exact .inr (.inr ⟨d, dev, hf, hk, hd, rfl⟩)
    · rw [e] at h
      cases h
  · rw [e] at h
    cases h
    exact .inl ⟨r, hf, rfl⟩

/-- The end of a READ, by what the device yielded. -/
theorem finishRead_ok (t : Target) (s : State) (b : Byte) :
    finishRead t (s, .ok b) = s.respond (.byte t.kind t.offset b) := rfl

theorem finishRead_fault (t : Target) (s : State) (f : FaultInfo) :
    finishRead t (s, .fault f) = takeFault (.deviceFault t.kind t.offset f) s := rfl

/-- The end of a WRITE, by what the device yielded. -/
theorem finishWrite_ok (t : Target) (s : State) : finishWrite t (s, .ok) = s.respond (.written t.kind t.offset) := rfl

theorem finishWrite_fault (t : Target) (s : State) (f : FaultInfo) :
    finishWrite t (s, .fault f) = takeFault (.deviceFault t.kind t.offset f) s := rfl

/-- The end of a READ sends one response, and latches it when it is a fault. -/
theorem finishRead_cases (t : Target) (p : State × ReadResult) :
    (∃ b, p.2 = .ok b ∧ finishRead t p = p.1.respond (.byte t.kind t.offset b)) ∨
      ∃ f, p.2 = .fault f ∧ finishRead t p = takeFault (.deviceFault t.kind t.offset f) p.1 := by
  obtain ⟨s, r⟩ := p
  cases r with
  | ok b => exact .inl ⟨b, rfl, rfl⟩
  | fault f => exact .inr ⟨f, rfl, rfl⟩

/-- The end of a WRITE sends one response, and latches it when it is a fault. -/
theorem finishWrite_cases (t : Target) (p : State × WriteResult) :
    (p.2 = .ok ∧ finishWrite t p = p.1.respond (.written t.kind t.offset)) ∨
      ∃ f, p.2 = .fault f ∧ finishWrite t p = takeFault (.deviceFault t.kind t.offset f) p.1 := by
  obtain ⟨s, r⟩ := p
  cases r with
  | ok => exact .inl ⟨rfl, rfl⟩
  | fault f => exact .inr ⟨f, rfl, rfl⟩

/-! ### INSTALL -/

/-- Everything an INSTALL that answers a next state did. -/
theorem execInstall_cases {k : Kind} {d : DevId} {s t : State} (h : execInstall k d s = .next t) :
    d.toNat < s.devices.length ∧
      ((∃ r, s.fault = some r ∧ t = s.respond (.fault r)) ∨
        (s.fault = none ∧ t = (s.bind k d).respond (.installed k))) := by
  unfold execInstall at h
  split at h
  · rename_i hd
    refine ⟨hd, ?_⟩
    rcases unlessFaulted_cases s (.next ((s.bind k d).respond (.installed k))) with ⟨hf, e⟩ | ⟨r, hf, e⟩
    · rw [e] at h
      cases h
      exact .inr ⟨hf, rfl⟩
    · rw [e] at h
      cases h
      exact .inl ⟨r, hf, rfl⟩
  · cases h

/-! ### All instructions -/

/-- Everything an instruction that answers a next state did. -/
theorem exec_cases {i : Instr} {s t : State} (h : exec i s = .next t) :
    (∃ a, i = .read a ∧ execRead a s = .next t) ∨
    (∃ a v, i = .write a v ∧ execWrite a v s = .next t) ∨
    (∃ k d, i = .install k d ∧ execInstall k d s = .next t) ∨
    (∃ a, i = .decode a ∧ t = s.respond (.decoded (decodeAddress a).kind (decodeAddress a).offset)) ∨
    ((∀ a, i ≠ .read a) ∧ (∀ a v, i ≠ .write a v) ∧ (∀ k d, i ≠ .install k d) ∧ (∀ a, i ≠ .decode a) ∧
      ∃ target, t = s.emitLookup target ∧ ∀ u, exec i u = .next (u.emitLookup target)) := by
  cases i with
  | read a => exact .inl ⟨a, rfl, h⟩
  | write a v => exact .inr (.inl ⟨a, v, rfl, h⟩)
  | install k d => exact .inr (.inr (.inl ⟨k, d, rfl, h⟩))
  | decode a => cases h; exact .inr (.inr (.inr (.inl ⟨a, rfl, rfl⟩)))
  | _ => cases h; exact .inr (.inr (.inr (.inr ⟨by simp, by simp, by simp, by simp, _, rfl, fun _ => rfl⟩)))

/-- No instruction ends the run. -/
theorem exec_endedRuns {i : Instr} {s t : State} (h : exec i s = .next t) : t.endedRuns = s.endedRuns := by
  rcases exec_cases h with ⟨a, _, h⟩ | ⟨a, v, _, h⟩ | ⟨k, d, _, h⟩ | ⟨a, _, rfl⟩ | ⟨_, _, _, _, _, rfl, _⟩
  · rcases execRead_cases h with ⟨r, _, rfl⟩ | ⟨_, _, rfl⟩ | ⟨d, dev, _, _, _, rfl⟩
    · rfl
    · rfl
    · rcases finishRead_cases (decodeAddress a) (devRead (decodeAddress a).kind d dev (decodeAddress a).offset s)
        with ⟨b, _, e⟩ | ⟨f, _, e⟩ <;> rw [e] <;> rfl
  · rcases execWrite_cases h with ⟨r, _, rfl⟩ | ⟨_, _, rfl⟩ | ⟨d, dev, _, _, _, rfl⟩
    · rfl
    · rfl
    · rcases finishWrite_cases (decodeAddress a) (devWrite (decodeAddress a).kind d dev (decodeAddress a).offset v s)
        with ⟨_, e⟩ | ⟨f, _, e⟩ <;> rw [e] <;> rfl
  · rcases (execInstall_cases h).2 with ⟨r, _, rfl⟩ | ⟨_, rfl⟩ <;> rfl
  · rfl
  · rfl

/-- No instruction clears or overwrites the latch. -/
theorem exec_keeps_fault {i : Instr} {s t : State} {r : FaultRecord} (hs : s.fault = some r) (h : exec i s = .next t) :
    t.fault = some r := by
  rcases exec_cases h with ⟨a, _, h⟩ | ⟨a, v, _, h⟩ | ⟨k, d, _, h⟩ | ⟨a, _, rfl⟩ | ⟨_, _, _, _, _, rfl, _⟩
  · rw [execRead, unlessFaulted_set hs] at h; cases h; exact hs
  · rw [execWrite, unlessFaulted_set hs] at h; cases h; exact hs
  · rcases (execInstall_cases h).2 with ⟨_, _, rfl⟩ | ⟨hf, _⟩
    · exact hs
    · rw [hs] at hf; cases hf
  · exact hs
  · exact hs

/-! ### The step, and runs of steps -/

/-- With nothing presented the block does nothing. -/
theorem step_idle {s : State} (h : s.inputs = []) : step s = .next s := by
  unfold step fetchInput
  rw [h]

/-- A reset presented is performed. -/
theorem step_reset {s : State} {rest : List Input} (h : s.inputs = .reset :: rest) :
    step s = .next (resetBlock (s.setInputs rest)) := by
  unfold step fetchInput
  rw [h]

/-- A device's own activity takes place. -/
theorem step_activity {s : State} {d : DevId} {rest : List Input} (h : s.inputs = .activity d :: rest) :
    step s = .next (deviceActivity d (s.setInputs rest)) := by
  unfold step fetchInput
  rw [h]

/-- A word presented is decoded and executed. -/
theorem step_word {s : State} {w : PortWord} {rest : List Input} (h : s.inputs = .word w :: rest) :
    step s = exec (decodePortWord w) (s.setInputs rest) := by
  unfold step fetchInput
  rw [h]

/-- Everything a step that answers a next state did. -/
theorem step_cases {s t : State} (h : step s = .next t) :
    (s.inputs = [] ∧ t = s) ∨
    (∃ rest, s.inputs = .reset :: rest ∧ t = resetBlock (s.setInputs rest)) ∨
    (∃ d rest, s.inputs = .activity d :: rest ∧ t = deviceActivity d (s.setInputs rest)) ∨
    (∃ w rest, s.inputs = .word w :: rest ∧ exec (decodePortWord w) (s.setInputs rest) = .next t) := by
  cases hi : s.inputs with
  | nil =>
    rw [step_idle hi] at h
    cases h
    exact .inl ⟨rfl, rfl⟩
  | cons x rest =>
    cases x with
    | reset =>
      rw [step_reset hi] at h
      cases h
      exact .inr (.inl ⟨rest, rfl, rfl⟩)
    | activity d =>
      rw [step_activity hi] at h
      cases h
      exact .inr (.inr (.inl ⟨d, rest, rfl, rfl⟩))
    | word w =>
      rw [step_word hi] at h
      exact .inr (.inr (.inr ⟨w, rest, rfl, h⟩))

/-- A run of one step more is that step and then the rest of the run. -/
theorem run_succ_iff {n : Nat} {s t : State} :
    Host.Core.run core (n + 1) s = .next t ↔ ∃ u, step s = .next u ∧ Host.Core.run core n u = .next t := by
  have unfoldRun : ∀ (M : Host.Core) (x y : M.State), M.run (n + 1) x = .next y ↔
      ∃ u, M.step x = .next u ∧ M.run n u = .next y := by
    intro M x y
    rw [show M.run (n + 1) x = (match M.step x with
      | .next x' => M.run n x'
      | .fault r => .fault r
      | .refused r => .refused r) from rfl]
    cases hs : M.step x with
    | next u => simp
    | fault r => simp
    | refused r => simp
  exact unfoldRun core s t

/-- A run that goes on took one step and then the rest of the run. -/
theorem run_succ {n : Nat} {s t : State} (h : Host.Core.run core (n + 1) s = .next t) :
    ∃ u, step s = .next u ∧ Host.Core.run core n u = .next t := run_succ_iff.1 h

end Sys2Proof.Machine
end

