-- ==== Sys2Proof/Laws/PerInstr.lean ====
section
/-! SUPPORT. What is said of every instruction as syntax, one lemma per constructor: the encoder writes the fixed bits of the
instruction's opcode-table row (spec/30_encoding.md R62, R68). -/

namespace Sys2Proof.Laws.RowMatch

/-- The word of the instruction belongs to the instruction's table row. -/
def Statement (i : Instr) : Prop := i.row.covers (encode i) = true

/-- A mask that keeps no bit of the low part looks at the high part of an append alone. -/
theorem land_append {w n : Nat} (hi : BitVec w) (lo : BitVec n) (mask : Nat) (h : mask &&& (2 ^ n - 1) = 0) :
    (hi ++ lo).toNat &&& mask = (hi.toNat <<< n) &&& mask := by
  have hlo : lo.toNat &&& mask = 0 := by
    have e : lo.toNat = lo.toNat &&& (2 ^ n - 1) := by
      rw [Nat.and_two_pow_sub_one_eq_mod, Nat.mod_eq_of_lt lo.isLt]
    rw [e, Nat.and_assoc, Nat.and_comm _ mask, h, Nat.and_zero]
  rw [BitVec.toNat_append, Nat.and_or_distrib_right, hlo, Nat.or_zero]

/-- A region word covers its row. -/
theorem covers_address {n w : Nat} (pattern mask : Nat) (hi : BitVec w) (lo : BitVec n) (a : Address)
    (ha : a.toNat = (hi ++ lo).toNat) (hm : mask &&& (2 ^ n - 1) = 0) (hp : (hi.toNat <<< n) &&& mask = pattern) :
    TableRow.covers ⟨16, pattern, mask⟩ (.address a) = true := by
  have e : a.toNat &&& mask = pattern := by rw [ha, land_append hi lo mask hm, hp]
  simp [TableRow.covers, PortWord.width, PortWord.bits, e]

/-- A request word covers its row. -/
theorem covers_request (pattern : Nat) (op : BitVec 2) (lo : BitVec 30) (x : BitVec 32)
    (hx : x.toNat = (op ++ lo).toNat) (hp : (op.toNat <<< 30) &&& 0xC0000000 = pattern) :
    TableRow.covers ⟨32, pattern, 0xC0000000⟩ (.request x) = true := by
  have e : x.toNat &&& 0xC0000000 = pattern := by rw [hx, land_append op lo 0xC0000000 (by decide), hp]
  simp [TableRow.covers, PortWord.width, PortWord.bits, e]

/-- A request word is its operation code above its other thirty bits. -/
theorem reqWord_split (op kind : BitVec 2) (a : Address) (x : Byte) :
    (reqWord op kind a x).toNat = (op ++ (kind ++ 0#4 ++ a ++ x : BitVec 30)).toNat := by
  simp only [reqWord, BitVec.toNat_append, BitVec.toNat_ofNat, Nat.shiftLeft_or_distrib, ← Nat.shiftLeft_add,
    Nat.or_assoc]

theorem read (a : Address) : Statement (.read a) :=
  covers_request _ 0b00#2 _ _ (reqWord_split _ _ _ _) (by decide)

theorem write (a : Address) (v : Byte) : Statement (.write a v) :=
  covers_request _ 0b01#2 _ _ (reqWord_split _ _ _ _) (by decide)

theorem install (k : Kind) (d : DevId) : Statement (.install k d) :=
  covers_request _ 0b10#2 _ _ (reqWord_split _ _ _ _) (by decide)

theorem decode (a : Address) : Statement (.decode a) :=
  covers_request _ 0b11#2 _ _ (reqWord_split _ _ _ _) (by decide)

theorem regionInternalRAM (low : BitVec 13) : Statement (.regionInternalRAM low) :=
  covers_address 0x0000 0xE000 0b000#3 low _ rfl (by decide) (by decide)

theorem regionPPURegisters (low : BitVec 13) : Statement (.regionPPURegisters low) :=
  covers_address 0x2000 0xE000 0b001#3 low _ rfl (by decide) (by decide)

theorem regionAPUIORegisters (low : BitVec 5) : Statement (.regionAPUIORegisters low) :=
  covers_address 0x4000 0xFFE0 0b01000000000#11 low _ rfl (by decide) (by decide)

theorem regionCartridge4020 (low : BitVec 5) : Statement (.regionCartridge4020 low) :=
  covers_address 0x4020 0xFFE0 0b01000000001#11 low _ rfl (by decide) (by decide)

theorem regionCartridge4040 (low : BitVec 6) : Statement (.regionCartridge4040 low) :=
  covers_address 0x4040 0xFFC0 0b0100000001#10 low _ rfl (by decide) (by decide)

theorem regionCartridge4080 (low : BitVec 7) : Statement (.regionCartridge4080 low) :=
  covers_address 0x4080 0xFF80 0b010000001#9 low _ rfl (by decide) (by decide)

theorem regionCartridge4100 (low : BitVec 8) : Statement (.regionCartridge4100 low) :=
  covers_address 0x4100 0xFF00 0b01000001#8 low _ rfl (by decide) (by decide)

theorem regionCartridge4200 (low : BitVec 9) : Statement (.regionCartridge4200 low) :=
  covers_address 0x4200 0xFE00 0b0100001#7 low _ rfl (by decide) (by decide)

theorem regionCartridge4400 (low : BitVec 10) : Statement (.regionCartridge4400 low) :=
  covers_address 0x4400 0xFC00 0b010001#6 low _ rfl (by decide) (by decide)

theorem regionCartridge4800 (low : BitVec 11) : Statement (.regionCartridge4800 low) :=
  covers_address 0x4800 0xF800 0b01001#5 low _ rfl (by decide) (by decide)

theorem regionCartridge5000 (low : BitVec 12) : Statement (.regionCartridge5000 low) :=
  covers_address 0x5000 0xF000 0b0101#4 low _ rfl (by decide) (by decide)

theorem regionCartridge6000 (low : BitVec 13) : Statement (.regionCartridge6000 low) :=
  covers_address 0x6000 0xE000 0b011#3 low _ rfl (by decide) (by decide)

theorem regionCartridge8000 (low : BitVec 15) : Statement (.regionCartridge8000 low) :=
  covers_address 0x8000 0x8000 0b1#1 low _ rfl (by decide) (by decide)

end Sys2Proof.Laws.RowMatch
end

