-- ==== Sys2Proof/Tests/Slice0.lean ====
section
/-! SUPPORT. Tests. Expected words and effects are written out from spec/30_encoding.md and spec/95_test_vectors.md; a theorem
`witness_X` shows a concrete state and operands that meet the hypotheses of `Obligations.X`. -/

namespace Sys2Proof.Tests

open Sys2Proof.Machine

/-! ### Small states -/

/-- A block with the given slots, latch and devices, nothing presented and nothing sent. -/
def block (tab : DeviceTable) (fault : Option FaultRecord) (devs : List Device) : State :=
  ⟨tab, fault, devs, [], [], [], [], [], 0⟩

/-- The pool of the programs P1 to P3 (95 section 4), `M[0] = $07` and `M[$07FF] = $A5`. -/
def pool : List Device := [.ram 0x0800 [(0, 0x07#8), (0x7FF, 0xA5#8)], .trace 0x11#8 [], .trace 0x22#8 [], .trace 0x33#8 []]

/-- All four slots bound (95 section 3.2). -/
def bus : State := block ⟨some 0#8, some 1#8, some 2#8, some 3#8⟩ none pool

/-- No cartridge installed (95 P3 step 5). -/
def noCart : State := block ⟨some 0#8, some 1#8, some 2#8, none⟩ none pool

/-- No device installed. -/
def empty : State := block DeviceTable.empty none pool

/-- Faulted with `FAULT.rsp = $70000000` (95 P3 step 6). -/
def faulted : State := block ⟨some 0#8, some 1#8, some 2#8, none⟩ (some (.configurationError .cartridge 0#16)) pool

/-- A store of `size` bytes in the RAM and the Cartridge slot (95 P6). -/
def twoSlots (size : Nat) : State := block ⟨some 0#8, none, none, some 0#8⟩ none [.ram size []]

/-- An external device in every slot. -/
def opaqueBus : State := block ⟨some 0#8, some 0#8, some 0#8, some 0#8⟩ none [.external 0]

/-- The state with inputs presented. -/
def presented (xs : List Input) (s : State) : State := s.setInputs xs

/-- The state after, if there is one. -/
def after : Host.Outcome State Fault Refusal → Option State
  | .next t => some t
  | .fault _ => none
  | .refused _ => none

/-- The last response word sent. -/
def lastWord (o : Host.Outcome State Fault Refusal) : Option (BitVec 32) :=
  (after o).bind fun t => t.responses.head?.map Response.word

/-- The latched word. -/
def latchedWord (o : Host.Outcome State Fault Refusal) : Option (BitVec 32) :=
  (after o).bind fun t => t.fault.map FaultRecord.word

/-- Device `d` after. -/
def deviceAfter (o : Host.Outcome State Fault Refusal) (d : DevId) : Option Device := (after o).bind fun t => t.device d

/-- The last answer of the AddressDecoder. -/
def lastLookup (o : Host.Outcome State Fault Refusal) : Option Target := (after o).bind fun t => t.lookups.head?

/-! ### Well-formedness: the one check refuses (30_encoding.md R57) -/

theorem test_wf_refuses_install_of_no_device :
    (Instr.install .cartridge 5#8).wf 5 = false ∧ (Instr.install .cartridge 4#8).wf 5 = true ∧
      (Instr.install .internalRAM 255#8).wf 256 = true := by decide

/-! ### Decoding: words written out from the encodings -/

theorem test_decode_read : decodeTableWord 32 0b00_00_0000_0000100000000000_00000000 = some (.read 0x0800#16) := by decide
theorem test_decode_write :
    decodeTableWord 32 0b01_00_0000_0001111111111111_11111111 = some (.write 0x1FFF#16 0xFF#8) := by decide
theorem test_decode_install :
    decodeTableWord 32 0b10_11_0000_0000000000000000_00000011 = some (.install .cartridge 3#8) := by decide
theorem test_decode_decode :
    decodeTableWord 32 0b11_00_0000_0100000000011111_00000000 = some (.decode 0x401F#16) := by decide
theorem test_decode_regionInternalRAM :
    decodeTableWord 16 0b000_1100000000001 = some (.regionInternalRAM 0b1100000000001#13) := by decide
theorem test_decode_regionPPURegisters :
    decodeTableWord 16 0b001_1000000000110 = some (.regionPPURegisters 0b1000000000110#13) := by decide
theorem test_decode_regionAPUIORegisters :
    decodeTableWord 16 0b01000000000_10111 = some (.regionAPUIORegisters 0b10111#5) := by decide
theorem test_decode_regionCartridge4020 :
    decodeTableWord 16 0b01000000001_10001 = some (.regionCartridge4020 0b10001#5) := by decide
theorem test_decode_regionCartridge4040 :
    decodeTableWord 16 0b0100000001_100001 = some (.regionCartridge4040 0b100001#6) := by decide
theorem test_decode_regionCartridge4080 :
    decodeTableWord 16 0b010000001_1000001 = some (.regionCartridge4080 0b1000001#7) := by decide
theorem test_decode_regionCartridge4100 :
    decodeTableWord 16 0b01000001_10000001 = some (.regionCartridge4100 0b10000001#8) := by decide
theorem test_decode_regionCartridge4200 :
    decodeTableWord 16 0b0100001_100000001 = some (.regionCartridge4200 0b100000001#9) := by decide
theorem test_decode_regionCartridge4400 :
    decodeTableWord 16 0b010001_1000000001 = some (.regionCartridge4400 0b1000000001#10) := by decide
theorem test_decode_regionCartridge4800 :
    decodeTableWord 16 0b01001_10000000001 = some (.regionCartridge4800 0b10000000001#11) := by decide
theorem test_decode_regionCartridge5000 :
    decodeTableWord 16 0b0101_100000000001 = some (.regionCartridge5000 0b100000000001#12) := by decide
theorem test_decode_regionCartridge6000 :
    decodeTableWord 16 0b011_1000000000001 = some (.regionCartridge6000 0b1000000000001#13) := by decide
theorem test_decode_regionCartridge8000 :
    decodeTableWord 16 0b1_110000000000001 = some (.regionCartridge8000 0b110000000000001#15) := by decide

/-- Bits of no format, and a number too wide for its format, are rejected by name. -/
theorem test_decode_rejects_by_name :
    decodeBits 8 0 = .error (.noSuchFormat 8) ∧ decodeBits 16 0x10000 = .error (.tooWide 16) := ⟨rfl, rfl⟩

/-- The ignored fields of an INSTALL set: `$8FFFFF00` (95 section 3.3). -/
theorem test_decode_ignored_fields : decodeTableWord 32 0x8FFFFF00 = some (.install .internalRAM 0#8) := by decide

/-! ### One step of each request operation (95 sections 3.1 to 3.3) -/

theorem test_decode_3456 : lastWord (exec (.decode 0x3456#16) bus) = some 0x10000600#32 := by decide
theorem test_decode_while_faulted :
    lastWord (exec (.decode 0x0010#16) faulted) = some 0x00001000#32 ∧
      latchedWord (exec (.decode 0x0010#16) faulted) = some 0x70000000#32 := by decide

theorem test_read_ppu_alias :
    lastWord (exec (.read 0x200A#16) bus) = some 0x10000211#32 ∧
      deviceAfter (exec (.read 0x200A#16) bus) 1#8 = some (.trace 0x11#8 [.read 2#16]) := by decide
theorem test_read_past_the_store :
    lastWord (exec (.read 0x4820#16) (twoSlots 0x0800)) = some 0xB0080001#32 ∧
      latchedWord (exec (.read 0x4820#16) (twoSlots 0x0800)) = some 0xB0080001#32 := by decide

theorem test_write_17FF :
    lastWord (exec (.write 0x17FF#16 0xA5#8) (twoSlots 0x0800)) = some 0x0007FF00#32 ∧
      deviceAfter (exec (.write 0x17FF#16 0xA5#8) (twoSlots 0x0800)) 0#8 = some (.ram 0x0800 [(0x7FF, 0xA5#8)]) := by decide
theorem test_write_2005_empty :
    lastWord (exec (.write 0x2005#16 0x10#8) empty) = some 0x50000500#32 ∧
      deviceAfter (exec (.write 0x2005#16 0x10#8) empty) 1#8 = some (.trace 0x11#8 []) := by decide

theorem test_install_cartridge_3 :
    lastWord (exec (.install .cartridge 3#8) noCart) = some 0x30000000#32 ∧
      (after (exec (.install .cartridge 3#8) noCart)).map State.table = some bus.table := by decide
theorem test_install_while_faulted :
    lastWord (exec (.install .cartridge 3#8) faulted) = some 0x70000000#32 ∧
      (after (exec (.install .cartridge 3#8) faulted)).map State.table = some faulted.table := by decide

/-! ### The region rows -/

theorem test_regionInternalRAM :
    lastLookup (exec (.regionInternalRAM 0x1FFF#13) empty) = some ⟨.internalRAM, 0x07FF#16⟩ := by decide
theorem test_regionPPURegisters :
    lastLookup (exec (.regionPPURegisters 0x1456#13) empty) = some ⟨.ppuRegisters, 0x0006#16⟩ := by decide
theorem test_regionAPUIORegisters :
    lastLookup (exec (.regionAPUIORegisters 0x1F#5) empty) = some ⟨.apuIORegisters, 0x001F#16⟩ := by decide
theorem test_regionCartridge_rows :
    lastLookup (exec (.regionCartridge4020 0x00#5) empty) = some ⟨.cartridge, 0x0000#16⟩ ∧
    lastLookup (exec (.regionCartridge4040 0x3F#6) empty) = some ⟨.cartridge, 0x005F#16⟩ ∧
    lastLookup (exec (.regionCartridge4080 0x7F#7) empty) = some ⟨.cartridge, 0x00DF#16⟩ ∧
    lastLookup (exec (.regionCartridge4100 0x00#8) empty) = some ⟨.cartridge, 0x00E0#16⟩ ∧
    lastLookup (exec (.regionCartridge4200 0x00#9) empty) = some ⟨.cartridge, 0x01E0#16⟩ ∧
    lastLookup (exec (.regionCartridge4400 0x00#10) empty) = some ⟨.cartridge, 0x03E0#16⟩ ∧
    lastLookup (exec (.regionCartridge4800 0x00#11) empty) = some ⟨.cartridge, 0x07E0#16⟩ ∧
    lastLookup (exec (.regionCartridge5000 0x00#12) empty) = some ⟨.cartridge, 0x0FE0#16⟩ ∧
    lastLookup (exec (.regionCartridge6000 0x00#13) empty) = some ⟨.cartridge, 0x1FE0#16⟩ ∧
    lastLookup (exec (.regionCartridge8000 0x7FFF#15) empty) = some ⟨.cartridge, 0xBFDF#16⟩ := by decide

/-! ### Steps -/

/-- Reset (95 section 3.4): the table empty, the latch clear, every device as it was; the run that faulted stays on record
(60_exceptions.md R113). -/
theorem test_reset :
    after (step (presented [.reset] faulted)) =
      some { empty with endedRuns := [some (.configurationError .cartridge 0#16)] } := by decide

/-- A run that faulted and was then reset did not end well, though the run after it did (60_exceptions.md R113). -/
theorem test_reset_does_not_undo_a_fault :
    ∃ t, step (presented [.reset] faulted) = .next t ∧ ¬ t.endedWell ∧ t.lastRunEndedWell :=
  ⟨_, rfl, fun h => h.2 (.inr ⟨.configurationError .cartridge 0#16, List.mem_cons_self⟩), rfl, rfl⟩

/-- The first step after reset runs the word presented: DECODE $4020 (95 P3 step 11). -/
theorem test_first_step_after_reset :
    (after (step (State.reset.withFetchWord 32 0xC0402000))).map (fun t => t.responses.map Response.word) =
      some [0x30000000#32] := by decide

/-! ### Witnesses: the hypotheses of the obligations can be met -/

theorem witness_RequestWordSpellsItsOperation :
    (0x3FFFFFFF#32).toNat / 2 ^ 30 = 0 ∧ (0x7FFFFFFF#32).toNat / 2 ^ 30 = 1 ∧ (0xBFFFFFFF#32).toNat / 2 ^ 30 = 2 ∧
      (0xFFFFFFFF#32).toNat / 2 ^ 30 = 3 := by decide

theorem witness_InternalRamRegionRule : (0x1FFF#16).toNat ≤ 0x1FFF ∧ 3 < 4 ∧ 0x07FF < 0x0800 := by decide

theorem witness_PpuRegistersRegionRule :
    0x2000 ≤ (0x2000#16).toNat ∧ (0x2000#16).toNat ≤ 0x3FFF ∧ 0x2000 ≤ (0x3FFF#16).toNat ∧ (0x3FFF#16).toNat ≤ 0x3FFF ∧
      1023 < 1024 ∧ 7 < 8 := by decide

theorem witness_ApuIoRegistersRegionRule :
    0x4000 ≤ (0x4000#16).toNat ∧ (0x4000#16).toNat ≤ 0x401F ∧ 0x4000 ≤ (0x401F#16).toNat ∧ (0x401F#16).toNat ≤ 0x401F ∧
      (decodeAddress 0x401F#16).kind = .apuIORegisters := by decide

theorem witness_CartridgeRegionRule :
    0x4020 ≤ (0x4020#16).toNat ∧ 0x4020 ≤ (0xFFFF#16).toNat ∧ (decodeAddress 0xFFFF#16).kind = .cartridge := by decide

theorem witness_WiringGivesTheRegionRules :
    (0x1FFF#16).extractLsb' 13 3 = 0b000#3 ∧ (0x3FFF#16).extractLsb' 13 3 = 0b001#3 ∧
      (0x401F#16).extractLsb' 5 11 = 0b01000000000#11 ∧
      ((0x4020#16).extractLsb' 13 3 ≠ 0b000#3 ∧ (0x4020#16).extractLsb' 13 3 ≠ 0b001#3 ∧
        (0x4020#16).extractLsb' 5 11 ≠ 0b01000000000#11) := by decide

theorem witness_OffsetsFillTheKindsRange :
    (0x07FF#16).toNat < Config.storageSize .internalRAM ∧ (0x0007#16).toNat < Config.storageSize .ppuRegisters ∧
      (0x001F#16).toNat < Config.storageSize .apuIORegisters ∧ (0xBFDF#16).toNat < Config.storageSize .cartridge := by decide

theorem witness_AliasClasses :
    ((0x07FF#16).toNat ≤ 0x1FFF ∧ (0x1FFF#16).toNat ≤ 0x1FFF) ∧ 0x07FF < 0x0800 ∧
      (0x2000 ≤ (0x2007#16).toNat ∧ (0x2007#16).toNat ≤ 0x3FFF ∧ 0x2000 ≤ (0x3FFF#16).toNat ∧ (0x3FFF#16).toNat ≤ 0x3FFF) ∧
      7 < 8 ∧ 0x4000 ≤ (0x4000#16).toNat ∧
      (decodeAddress 0x401F#16).kind ≠ (decodeAddress 0x4020#16).kind := by decide

theorem witness_ReadOperation :
    decodeAddress 0x4820#16 = ⟨.cartridge, 0x0800#16⟩ ∧ decodeAddress 0x0000#16 = ⟨.internalRAM, 0#16⟩ ∧
    faulted.fault = some (.configurationError .cartridge 0#16) ∧
    (noCart.fault = none ∧ noCart.table.get .cartridge = none) ∧
    (bus.fault = none ∧ bus.table.get .cartridge = some 3#8 ∧ bus.device 3#8 = some (.trace 0x33#8 []) ∧
      deviceRead 3#8 bus.draws 0x0800#16 (.trace 0x33#8 []) = (.trace 0x33#8 [.read 0x0800#16], .ok 0x33#8)) ∧
    ((twoSlots 0x0800).fault = none ∧ (twoSlots 0x0800).table.get .cartridge = some 0#8 ∧
      (twoSlots 0x0800).device 0#8 = some (.ram 0x0800 []) ∧
      deviceRead 0#8 0 0x0800#16 (.ram 0x0800 []) = (.ram 0x0800 [], .fault 0x01#8)) :=
  ⟨by decide, by decide, rfl, ⟨rfl, rfl⟩, ⟨rfl, rfl, rfl, rfl⟩, ⟨rfl, rfl, rfl, rfl⟩⟩

theorem witness_WriteOperation :
    decodeAddress 0x4820#16 = ⟨.cartridge, 0x0800#16⟩ ∧
    faulted.fault = some (.configurationError .cartridge 0#16) ∧
    (noCart.fault = none ∧ noCart.table.get .cartridge = none) ∧
    (bus.fault = none ∧ bus.table.get .cartridge = some 3#8 ∧ bus.device 3#8 = some (.trace 0x33#8 []) ∧
      deviceWrite 3#8 bus.draws 0x0800#16 0x01#8 (.trace 0x33#8 []) = (.trace 0x33#8 [.write 0x0800#16 0x01#8], .ok)) ∧
    ((twoSlots 0x0800).fault = none ∧ (twoSlots 0x0800).table.get .cartridge = some 0#8 ∧
      (twoSlots 0x0800).device 0#8 = some (.ram 0x0800 []) ∧
      deviceWrite 0#8 0 0x0800#16 0x01#8 (.ram 0x0800 []) = (.ram 0x0800 [], .fault 0x01#8)) :=
  ⟨by decide, rfl, ⟨rfl, rfl⟩, ⟨rfl, rfl, rfl, rfl⟩, ⟨rfl, rfl, rfl, rfl⟩⟩

theorem witness_ReferenceRamHoldsItsBytes :
    (0x1FFF#16).toNat ≤ 0x1FFF ∧ (twoSlots 0x0800).fault = none ∧ (twoSlots 0x0800).table.get .internalRAM = some 0#8 ∧
      (twoSlots 0x0800).device 0#8 = some (.ram 0x0800 []) ∧ Memory.read [] (decodeAddress 0x1FFF#16).offset.toNat = none ∧
      (0#16 : Offset) ≠ (decodeAddress 0x1FFF#16).offset ∧ (1#8 : DevId) ≠ 0#8 := by decide

theorem witness_TestDevicesAnswerAsDescribed :
    bus.fault = none ∧ bus.table.get (decodeAddress 0xFFFF#16).kind = some 3#8 ∧
      bus.device 3#8 = some (.trace 0x33#8 []) ∧
    (twoSlots 0x0400).fault = none ∧ (twoSlots 0x0400).table.get (decodeAddress 0x0400#16).kind = some 0#8 ∧
      (twoSlots 0x0400).device 0#8 = some (.ram 0x0400 []) ∧ 0x0400 ≤ (decodeAddress 0x0400#16).offset.toNat := by decide

theorem witness_DataPassUnchanged :
    decodeAddress 0x4020#16 = ⟨.cartridge, 0#16⟩ ∧ opaqueBus.fault = none ∧
      opaqueBus.table.get .cartridge = some 0#8 ∧ opaqueBus.device 0#8 = some (.external 0) := by decide

theorem witness_InstallBindsTheDevice :
    (3#8 : DevId).toNat < noCart.ndev ∧ noCart.fault = none ∧
      ((3#8 : DevId).toNat < faulted.ndev ∧ faulted.fault = some (.configurationError .cartridge 0#16)) := by decide

theorem witness_InstallOfNoDeviceIsRefused :
    (0xB0000004#32).toNat / 2 ^ 30 = 2 ∧ bus.ndev ≤ (0xB0000004#32).toNat % 2 ^ 8 := by decide

theorem witness_ReinstallReplacesTheBinding :
    noCart.fault = none ∧ (2#8 : DevId).toNat < noCart.ndev ∧ (3#8 : DevId).toNat < noCart.ndev ∧
      (decodeAddress 0x8000#16).kind = .cartridge ∧ (Kind.ppuRegisters : Kind) ≠ .cartridge := by decide

theorem witness_OneExchangeOnTheDecodedPort :
    (∃ t, exec (.read 0x4020#16) bus = .next t) ∧ (∃ t, exec (.write 0x4020#16 1#8) bus = .next t) ∧
    bus.fault = none ∧ bus.table.get (decodeAddress 0x4020#16).kind = some 3#8 ∧
    (∃ t, exec (.read 0x4020#16) faulted = .next t) ∧ faulted.fault ≠ none ∧
    (∃ t, exec (.write 0x4020#16 1#8) noCart = .next t) ∧ noCart.table.get (decodeAddress 0x4020#16).kind = none ∧
    (∃ t, exec (.decode 0x4020#16) bus = .next t) ∧ (∀ a, Instr.decode 0x4020#16 ≠ .read a) ∧
    ∀ a v, Instr.decode 0x4020#16 ≠ .write a v :=
  ⟨⟨_, rfl⟩, ⟨_, rfl⟩, rfl, rfl, ⟨_, rfl⟩, by decide, ⟨_, rfl⟩, rfl, ⟨_, rfl⟩, by simp, by simp⟩

theorem witness_OtherSlotsAreNotLookedAt :
    DeviceTable.get ⟨some 0#8, none, none, none⟩ (decodeAddress 0x0000#16).kind =
      bus.table.get (decodeAddress 0x0000#16).kind := by decide

theorem witness_WhoWritesWhat :
    (∃ t, exec (.install .cartridge 3#8) noCart = .next t ∧ t.table ≠ noCart.table) ∧
    (∃ t, exec (.read 0x4020#16) noCart = .next t ∧ t.fault ≠ noCart.fault) ∧
    (∃ t, exec (.read 0x4020#16) bus = .next t ∧ t.device 3#8 ≠ bus.device 3#8) :=
  ⟨⟨_, rfl, by decide⟩, ⟨_, rfl, by decide⟩, ⟨_, rfl, by decide⟩⟩

theorem witness_NonStoringInstructionsKeepEveryByte :
    (∀ a v, Instr.read 0x0800#16 ≠ .write a v) ∧ ∃ t, exec (.read 0x0800#16) bus = .next t :=
  ⟨by simp, ⟨_, rfl⟩⟩

theorem witness_WriteChangesOneByte :
    (∃ t, exec (.write 0x1FFF#16 0x5A#8) bus = .next t) ∧
    ¬ (bus.table.get (decodeAddress 0x1FFF#16).kind = some 0#8 ∧ (0#16 : Offset) = (decodeAddress 0x1FFF#16).offset) ∧
    bus.fault = none ∧ bus.table.get (decodeAddress 0x1FFF#16).kind = some 0#8 ∧
    storedByte 0#8 (decodeAddress 0x1FFF#16).offset bus ≠ none :=
  ⟨⟨_, rfl⟩, by decide, rfl, rfl, by decide⟩

theorem witness_PpuAliasesAreTheSameAccess :
    0x2000 ≤ (0x2000#16).toNat ∧ (0x2000#16).toNat ≤ 0x3FFF ∧ 0x2000 ≤ (0x3FF8#16).toNat ∧ (0x3FF8#16).toNat ≤ 0x3FFF ∧
      (0x2000#16).toNat % 0x0008 = (0x3FF8#16).toNat % 0x0008 := by decide

theorem witness_RamMirrorShowsTheWrite :
    (0x07FF#16).toNat ≤ 0x1FFF ∧ (0x1FFF#16).toNat ≤ 0x1FFF ∧ (0x07FF#16).toNat % 0x0800 = (0x1FFF#16).toNat % 0x0800 ∧
      noCart.fault = none ∧ noCart.table.get .internalRAM = some 0#8 ∧
      noCart.device 0#8 = some (.ram 0x0800 [(0, 0x07#8), (0x7FF, 0xA5#8)]) := by decide

/-- WRITE $0000, $42, then DECODE $0000 in between, then READ $0800 (95 S5). -/
def mirrorRun : State :=
  presented [.word (encode (.write 0x0000#16 0x42#8)), .word (encode (.decode 0x0000#16)),
    .word (encode (.read 0x0800#16))] bus

theorem witness_RamMirrorAcrossARun :
    (0x0000#16).toNat ≤ 0x1FFF ∧ (0x0800#16).toNat ≤ 0x1FFF ∧ (0x0000#16).toNat % 0x0800 = (0x0800#16).toNat % 0x0800 ∧
    mirrorRun.fault = none ∧ mirrorRun.table.get .internalRAM = some 0#8 ∧
    (∀ k, k ≠ Kind.internalRAM → mirrorRun.table.get k ≠ some 0#8) ∧
    mirrorRun.device 0#8 = some (.ram 0x0800 [(0, 0x07#8), (0x7FF, 0xA5#8)]) ∧
    mirrorRun.inputs = .word (encode (.write 0x0000#16 0x42#8)) ::
      ([.word (encode (.decode 0x0000#16))] ++ .word (encode (.read 0x0800#16)) :: []) ∧
    (∀ x ∈ [Input.word (encode (.decode 0x0000#16))], x ≠ .reset ∧ ∀ w, x = .word w →
      (∀ a' v', decodePortWord w = .write a' v' → decodeAddress a' ≠ decodeAddress 0x0000#16) ∧
      (∀ k' d', decodePortWord w = .install k' d' → k' ≠ .internalRAM ∧ d' ≠ 0#8)) ∧
    ∃ t, Host.Core.run core 3 mirrorRun = .next t ∧ t.fault = none := by
  refine ⟨by decide, by decide, by decide, rfl, rfl, ?_, rfl, rfl, ?_, ⟨_, rfl, rfl⟩⟩
  · intro k hk
    cases k with
    | internalRAM => exact absurd rfl hk
    | ppuRegisters => decide
    | apuIORegisters => decide
    | cartridge => decide
  · intro x hx
    rw [List.mem_singleton.1 hx]
    refine ⟨by simp, fun w hw => ?_⟩
    cases hw
    rw [show decodePortWord (encode (.decode 0x0000#16)) = .decode 0x0000#16 by decide]
    exact ⟨by simp, by simp⟩

theorem witness_DeviceInTwoSlotsIsShared :
    (twoSlots 0x0800).fault = none ∧ (twoSlots 0x0800).table.get .internalRAM = some 0#8 ∧
      (twoSlots 0x0800).table.get .cartridge = some 0#8 ∧ (twoSlots 0x0800).device 0#8 = some (.ram 0x0800 []) ∧
      (decodeAddress 0x0FFF#16).kind = .internalRAM ∧ (decodeAddress 0x481F#16).kind = .cartridge ∧
      (decodeAddress 0x481F#16).offset = (decodeAddress 0x0FFF#16).offset ∧
      (decodeAddress 0x0FFF#16).offset.toNat < 0x0800 := by decide

theorem witness_ExchangeWords : (0x0FF#9).toNat < 2 ^ 8 ∧ 2 ^ 8 ≤ (0x100#9).toNat := by decide

theorem witness_FaultEntry :
    (Instr.install .cartridge 3#8).wf bus.ndev = true ∧ (∀ a, Instr.install .cartridge 3#8 ≠ .decode a) ∧
      ∀ x, encode (.install .cartridge 3#8) ≠ .address x := ⟨by decide, by simp, by simp [encode]⟩

theorem witness_OnlyReadAndWriteRaise :
    noCart.fault = none ∧ (∃ t, exec (.read 0x4020#16) noCart = .next t ∧
      t.fault = some (.configurationError .cartridge 0#16)) ∧
    (twoSlots 0x0400).fault = none ∧ ∃ t, exec (.write 0x0400#16 1#8) (twoSlots 0x0400) = .next t ∧
      t.fault = some (.deviceFault .internalRAM 0x0400#16 0x01#8) := ⟨rfl, ⟨_, rfl, rfl⟩, rfl, ⟨_, rfl, rfl⟩⟩

theorem witness_FaultedBlockRefusesAccesses :
    faulted.fault = some (.configurationError .cartridge 0#16) ∧ (3#8 : DevId).toNat < faulted.ndev := by decide

/-- READ $0010 and INSTALL Cartridge, 3 presented to a faulted block (95 P3 steps 7 and 8). -/
def faultedRun : State :=
  presented [.word (encode (.read 0x0010#16)), .word (encode (.install .cartridge 3#8))] faulted

theorem witness_FaultIsTerminalAlongARun :
    faultedRun.fault = some (.configurationError .cartridge 0#16) ∧ (∀ x ∈ faultedRun.inputs, x ≠ .reset) ∧
      ∃ t, Host.Core.run core 2 faultedRun = .next t := ⟨rfl, by decide, ⟨_, rfl⟩⟩

/-- READ $2002 and WRITE $FFFF, 1 presented to a booted block. -/
def bootedRun : State :=
  presented [.word (encode (.read 0x2002#16)), .word (encode (.write 0xFFFF#16 1#8))] bus

theorem witness_BoundKindNeverMissesItsDevice :
    bootedRun.table.get .ppuRegisters ≠ none ∧ bootedRun.fault = none ∧ (∀ x ∈ bootedRun.inputs, x ≠ .reset) ∧
      (∃ t, Host.Core.run core 2 bootedRun = .next t) ∧ bootedRun.allBound :=
  ⟨by decide, rfl, by decide, ⟨_, rfl⟩, fun k => by cases k <;> decide⟩

theorem witness_OnlyResetEmptiesASlot :
    ∃ t, step (presented [.reset] bus) = .next t ∧ (presented [.reset] bus).table.get .cartridge ≠ none ∧
      t.table.get .cartridge = none := ⟨_, rfl, by decide, rfl⟩

theorem witness_ResetTouchesNoDevice : (presented [.reset] faulted).inputs = .reset :: [] := rfl

theorem witness_DeviceActivityTouchesOnlyItsDevice :
    (presented [.activity 0#8] opaqueBus).inputs = .activity 0#8 :: [] ∧ (1#8 : DevId) ≠ 0#8 := by decide

theorem witness_StepRunsTheDecodedInstruction :
    bootedRun.inputs = .word (encode (.read 0x2002#16)) :: [.word (encode (.write 0xFFFF#16 1#8))] ∧
      decodePortWord (encode (.read 0x2002#16)) = .read 0x2002#16 ∧
      decodeTableWord 16 0xFFFF = some (.regionCartridge8000 0x7FFF#15) := ⟨rfl, by decide, by decide⟩

theorem witness_OneResponsePerRequest :
    bootedRun.inputs = .word (.request 0x00200200#32) :: [.word (encode (.write 0xFFFF#16 1#8))] ∧
      ∃ t, step bootedRun = .next t := ⟨by decide, ⟨_, rfl⟩⟩

theorem witness_RecordsDoNotFeedBack : ∃ t, exec (.read 0x2002#16) bus = .next t := ⟨_, rfl⟩

theorem bus_devices_wf : ∀ dev ∈ pool, dev.wf := by
  intro dev h
  simp only [pool, List.mem_cons, List.not_mem_nil, or_false] at h
  rcases h with rfl | rfl | rfl | rfl
  · exact ⟨by decide, by decide⟩
  · trivial
  · trivial
  · trivial

theorem bootedRun_inv : bootedRun.Inv :=
  ⟨by decide, by decide, fun k d h => by cases k <;> cases h <;> decide, bus_devices_wf, fun r h => by cases h⟩

theorem witness_StepKeepsLegality : bootedRun.Inv ∧ ∃ t, step bootedRun = .next t := ⟨bootedRun_inv, ⟨_, rfl⟩⟩

/-- A legal state with a fault latched. -/
theorem witness_faulted_state_is_legal : faultedRun.Inv :=
  ⟨by decide, by decide, fun k d h => by cases k <;> cases h <;> decide, bus_devices_wf,
    fun r h => by cases h; exact ⟨by decide, rfl⟩⟩

theorem witness_LegalStatesGoOn : bootedRun.Inv := bootedRun_inv

theorem witness_OnlyResetStartsANewRun :
    (∃ t, step (presented [.reset] faulted) = .next t) ∧
      ∃ t, step faultedRun = .next t ∧ faultedRun.fault = some (.configurationError .cartridge 0#16) :=
  ⟨⟨_, rfl⟩, ⟨_, rfl, rfl⟩⟩

/-- READ $4020 with no cartridge, then a reset (95 P3 steps 6 and 10). -/
def faultThenReset : State := presented [.word (encode (.read 0x4020#16)), .reset] noCart

/-- From a state not refuted, through a faulted one, to one that is not faulted and is refuted. -/
theorem witness_AFaultedRunIsRefutedForGood :
    ¬ faultThenReset.refuted ∧ (∃ u, Host.Core.run core 1 faultThenReset = .next u ∧ u.fault ≠ none) ∧
      (∃ t, Host.Core.run core 2 faultThenReset = .next t ∧ t.fault = none ∧ t.refuted) ∧
      ∃ t, Host.Core.run core 2 bootedRun = .next t ∧ t.inputs = [] ∧ ¬ t.refuted :=
  ⟨fun h => h.elim (fun h => h rfl) (fun ⟨_, h⟩ => List.not_mem_nil h), ⟨_, rfl, nofun⟩,
    ⟨_, rfl, rfl, .inr ⟨.configurationError .cartridge 0#16, List.mem_cons_self⟩⟩,
    ⟨_, rfl, rfl, fun h => h.elim (fun h => h rfl) (fun ⟨_, h⟩ => List.not_mem_nil h)⟩⟩

end Sys2Proof.Tests
end

section
/-! SUPPORT. The regions of AddressSpace: their ranges are disjoint, and `decode` reads an address by the one it lies in
(spec/20_memory.md R29; spec/40_decode.md R74). -/

namespace Sys2Proof.Machine

/-- No two ranges of AddressSpace overlap: a number in a region's range is in no other region's. -/
theorem addressSpace_filter_eq_of_mem {r : Region} {n : Nat} (hr : r ∈ Config.addressSpace) (hlo : r.base ≤ n)
    (hhi : n < r.base + r.size) :
    Config.addressSpace.filter (fun r => decide (r.base ≤ n ∧ n < r.base + r.size)) = [r] := by
  simp only [Config.addressSpace, List.mem_cons, List.not_mem_nil, or_false] at hr
  simp only [Config.addressSpace, List.filter_cons, List.filter_nil, decide_eq_true_eq]
  rcases hr with rfl | rfl | rfl | rfl <;> dsimp only at hlo hhi
  · rw [if_pos (by omega), if_neg (by omega), if_neg (by omega), if_neg (by omega)]
  · rw [if_neg (by omega), if_pos (by omega), if_neg (by omega), if_neg (by omega)]
  · rw [if_neg (by omega), if_neg (by omega), if_pos (by omega), if_neg (by omega)]
  · rw [if_neg (by omega), if_neg (by omega), if_neg (by omega), if_pos (by omega)]

/-- Every address lies in a region of AddressSpace, and `decode` gives that region's kind and the offset its base and mirror
period fix. -/
theorem decodeAddress_of_region (a : Address) :
    ∃ r ∈ Config.addressSpace, r.base ≤ a.toNat ∧ a.toNat < r.base + r.size ∧ (decodeAddress a).kind = r.kind ∧
      (decodeAddress a).offset.toNat =
        match r.mirrorPeriod with
        | some p => (a.toNat - r.base) % p
        | none => a.toNat - r.base := by
  have ha := a.isLt
  rcases decodeAddress_cases a with ⟨h, e⟩ | ⟨h, h', e⟩ | ⟨h, h', e⟩ | ⟨h, e⟩ <;> rw [e]
  · refine ⟨⟨0x0000, 0x2000, .internalRAM, some 0x0800⟩, by simp [Config.addressSpace], ?_⟩
    simp only [BitVec.toNat_ofNat, true_and]
    omega
  · refine ⟨⟨0x2000, 0x2000, .ppuRegisters, some 0x0008⟩, by simp [Config.addressSpace], ?_⟩
    simp only [BitVec.toNat_ofNat, true_and]
    omega
  · refine ⟨⟨0x4000, 0x0020, .apuIORegisters, none⟩, by simp [Config.addressSpace], ?_⟩
    simp only [BitVec.toNat_ofNat, true_and]
    omega
  · refine ⟨⟨0x4020, 0xBFE0, .cartridge, none⟩, by simp [Config.addressSpace], ?_⟩
    simp only [BitVec.toNat_ofNat, true_and]
    omega

/-- `decode` answers Cartridge from $4020 on and nowhere else. -/
theorem decodeAddress_kind_eq_cartridge_iff (a : Address) : (decodeAddress a).kind = .cartridge ↔ 0x4020 ≤ a.toNat := by
  rcases decodeAddress_cases a with ⟨h, e⟩ | ⟨_, h, e⟩ | ⟨_, h, e⟩ | ⟨h, e⟩ <;> rw [e]
  · exact iff_of_false nofun (by omega)
  · exact iff_of_false nofun (by omega)
  · exact iff_of_false nofun (by omega)
  · exact iff_of_true rfl h

/-- DECODE sends one response in every state and does nothing else. -/
theorem exec_decode (a : Address) (s : State) :
    exec (.decode a) s = .next (s.respond (.decoded (decodeAddress a).kind (decodeAddress a).offset)) := rfl

/-- Settles O10: the region `decode` reads the address by is the only one whose range holds it. -/
theorem regionsCoverTheAddressSpace : Obligations.RegionsCoverTheAddressSpace := by
  intro a
  refine ⟨?_, decodeAddress_kind_eq_cartridge_iff a, fun s => ⟨_, exec_decode a s, rfl⟩⟩
  obtain ⟨r, hr, hlo, hhi, hkind, hoffset⟩ := decodeAddress_of_region a
  exact ⟨r, addressSpace_filter_eq_of_mem hr hlo hhi, hkind, hoffset⟩

end Sys2Proof.Machine
end

section
/-! SUPPORT. READ and WRITE of a byte that the RAM bound to the decoded kind has (spec/20_memory.md R38). -/

namespace Sys2Proof.Machine

/-- READ is performed by `execRead`. -/
theorem exec_read (a : Address) (s : State) : exec (.read a) s = execRead a s := rfl

/-- WRITE is performed by `execWrite`. -/
theorem exec_write (a : Address) (v : Byte) (s : State) : exec (.write a v) s = execWrite a v s := rfl

/-- Putting back the device that is there changes nothing. -/
theorem State.putDevice_self {s : State} {d : DevId} {dev : Device} (h : s.device d = some dev) :
    s.putDevice d dev = s := by
  obtain ⟨hlt, hget⟩ := List.getElem?_eq_some_iff.1 h
  unfold State.putDevice
  rw [← hget, List.set_getElem_self]

section
variable {a : Address} {s : State} {d : DevId} {size : Nat} {mem : Memory}

/-- READ of a byte that the bound RAM has: the exchange and the byte, no device changed. -/
theorem exec_read_ram (hf : s.fault = none) (hk : s.table.get (decodeAddress a).kind = some d)
    (hd : s.device d = some (.ram size mem)) (ho : (decodeAddress a).offset.toNat < size) :
    exec (.read a) s = .next ((s.logExchange (.read (decodeAddress a).kind d (decodeAddress a).offset
        (.ok (ramByte d mem (decodeAddress a).offset)))).respond
      (.byte (decodeAddress a).kind (decodeAddress a).offset (ramByte d mem (decodeAddress a).offset))) := by
  rw [exec_read, execRead_bound hf hk hd, devRead, deviceRead_ram ho, finishRead_ok, State.putDevice_self hd]
  rfl

/-- WRITE of a byte that the bound RAM has: the exchange and the stored byte. -/
theorem exec_write_ram (hf : s.fault = none) (hk : s.table.get (decodeAddress a).kind = some d)
    (hd : s.device d = some (.ram size mem)) (ho : (decodeAddress a).offset.toNat < size) (v : Byte) :
    exec (.write a v) s = .next
      (((s.putDevice d (.ram size (Memory.write mem (decodeAddress a).offset.toNat v))).logExchange
        (.write (decodeAddress a).kind d (decodeAddress a).offset v .ok)).respond
      (.written (decodeAddress a).kind (decodeAddress a).offset)) := by
  rw [exec_write, execWrite_bound hf hk hd, devWrite, deviceWrite_ram ho, finishWrite_ok]
  rfl

end

/-- A byte of a RAM that nothing has written is `RAM_INIT`. -/
theorem ramByte_of_unwritten {mem : Memory} {o : Offset} (h : Memory.read mem o.toNat = none) (d : DevId) :
    ramByte d mem o = Config.ramInit d o := by
  rw [ramByte, h, Option.getD_none]

/-- `decode` of a RAM address gives an offset that the reference RAM has. -/
theorem decodeAddress_ram_offset_lt {a : Address} (h : a.toNat ≤ 0x1FFF) : (decodeAddress a).offset.toNat < 0x0800 := by
  rw [decodeAddress_ram h, BitVec.toNat_ofNat]
  omega

/-- Settles O20: a RAM address decodes to a byte the reference RAM has, so READ and WRITE are the exchange with a RAM. -/
theorem referenceRamHoldsItsBytes : Obligations.ReferenceRamHoldsItsBytes := by
  intro a s d mem ha hf hk hd
  have hkind : (decodeAddress a).kind = .internalRAM := by rw [decodeAddress_ram ha]
  have ho := decodeAddress_ram_offset_lt ha
  have hslot : s.table.get (decodeAddress a).kind = some d := by rw [hkind, hk]
  refine ⟨?_, fun h => ramByte_of_unwritten h d, fun v => ?_⟩
  · rw [exec_read_ram hf hslot hd ho, hkind]
    rfl
  · have hw := exec_write_ram hf hslot hd ho v
    rw [hkind] at hw
    exact ⟨_, _, hw, hf, rfl, rfl, State.device_putDevice_same hd _, ramByte_write_same d mem _ v,
      fun _ h => ramByte_write_other d mem h v, fun _ h => State.device_putDevice_other h _⟩

end Sys2Proof.Machine
end

section
/-! SUPPORT. The request word by its operation code: which fields the decoder takes, and which words the encoder writes
(spec/30_encoding.md R54, R63). -/

namespace Sys2Proof.Machine

section
variable {w : BitVec 32}

/-- Operation 00 takes the address. -/
theorem decodeRequest_of_op_read (h : reqOp w = 0b00#2) : decodeRequest w = .read (reqAddr w) := by
  simp [decodeRequest, h]

/-- Operation 01 takes the address and the byte. -/
theorem decodeRequest_of_op_write (h : reqOp w = 0b01#2) : decodeRequest w = .write (reqAddr w) (reqData w) := by
  simp [decodeRequest, h]

/-- Operation 10 takes the kind and the device identifier. -/
theorem decodeRequest_of_op_install (h : reqOp w = 0b10#2) :
    decodeRequest w = .install (Kind.ofCode (reqKind w)) (reqData w) := by
  simp [decodeRequest, h]

/-- Operation 11 takes the address. -/
theorem decodeRequest_of_op_decode (h : reqOp w = 0b11#2) : decodeRequest w = .decode (reqAddr w) := by
  simp [decodeRequest, h]

end

/-- The word the encoder puts together is the one with these fields and zero `rsv`. -/
theorem reqWord_eq_iff (op kind : BitVec 2) (a : Address) (x : Byte) (w : BitVec 32) :
    reqWord op kind a x = w ↔
      reqOp w = op ∧ reqKind w = kind ∧ w.extractLsb' 24 4 = 0#4 ∧ reqAddr w = a ∧ reqData w = x := by
  constructor
  · rintro rfl
    exact request_fields op kind 0#4 a x
  · rintro ⟨rfl, rfl, hrsv, rfl, rfl⟩
    rw [reqWord, ← hrsv]
    exact (request_eq_fields w).symm

/-- The decoder reads a word put together from fields by `op` and the fields `op` uses. -/
theorem decodeRequest_fields (kind : BitVec 2) (rsv : BitVec 4) (a : Address) (x : Byte) :
    decodeRequest (0b00#2 ++ kind ++ rsv ++ a ++ x) = .read a ∧
      decodeRequest (0b01#2 ++ kind ++ rsv ++ a ++ x) = .write a x ∧
      decodeRequest (0b10#2 ++ kind ++ rsv ++ a ++ x) = .install (Kind.ofCode kind) x ∧
      decodeRequest (0b11#2 ++ kind ++ rsv ++ a ++ x) = .decode a := by
  refine ⟨?_, ?_, ?_, ?_⟩
  · obtain ⟨hop, -, -, ha, -⟩ := request_fields 0b00#2 kind rsv a x
    rw [decodeRequest_of_op_read hop, ha]
  · obtain ⟨hop, -, -, ha, hx⟩ := request_fields 0b01#2 kind rsv a x
    rw [decodeRequest_of_op_write hop, ha, hx]
  · obtain ⟨hop, hk, -, -, hx⟩ := request_fields 0b10#2 kind rsv a x
    rw [decodeRequest_of_op_install hop, hk, hx]
  · obtain ⟨hop, -, -, ha, -⟩ := request_fields 0b11#2 kind rsv a x
    rw [decodeRequest_of_op_decode hop, ha]

/-- The canonical words are those the encoder writes for the operations they spell. -/
theorem canonicalRequest_iff (w : BitVec 32) : canonicalRequest w = true ↔ encode (decodeRequest w) = .request w := by
  unfold canonicalRequest
  rcases op_cases (reqOp w) with h | h | h | h
  · rw [decodeRequest_of_op_read h, encode, PortWord.request.injEq, reqWord_eq_iff]
    simp [h, and_left_comm]
  · rw [decodeRequest_of_op_write h, encode, PortWord.request.injEq, reqWord_eq_iff]
    simp [h, and_comm]
  · rw [decodeRequest_of_op_install h, encode, PortWord.request.injEq, reqWord_eq_iff]
    simp [h]
  · rw [decodeRequest_of_op_decode h, encode, PortWord.request.injEq, reqWord_eq_iff]
    simp [h, and_left_comm]

/-- Settles O2: the decoder takes the operation and its own fields, and the encoder writes zero in the others. -/
theorem ignoredFieldsAreIgnored : Obligations.IgnoredFieldsAreIgnored :=
  ⟨decodeRequest_fields, canonicalRequest_iff⟩

end Sys2Proof.Machine
end

section
/-! SUPPORT. The response word as a number, its status and its zero bits (spec/30_encoding.md R58, R59). -/

namespace Sys2Proof.Machine

/-- A response word as a number. -/
theorem rspWord_toNat (st : Status) (k : Kind) (o : Offset) (x : Byte) :
    (rspWord st k o x).toNat = st.code.toNat * 2 ^ 30 + k.code.toNat * 2 ^ 28 + o.toNat * 2 ^ 8 + x.toNat := by
  simp only [rspWord, toNat_append_add, BitVec.toNat_ofNat]
  omega

/-- The status of a response word is its top two bits, and the four bits below the kind are zero. -/
theorem rspWord_fields (st : Status) (k : Kind) (o : Offset) (x : Byte) :
    (rspWord st k o x).extractLsb' 30 2 = st.code ∧ (rspWord st k o x).extractLsb' 24 4 = 0#4 := by
  obtain ⟨hstatus, -, hzero, -, -⟩ := request_fields st.code k.code 0#4 o x
  exact ⟨hstatus, hzero⟩

/-- Status code 11 is no status. -/
theorem Status.code_ne_three (st : Status) : st.code ≠ 0b11#2 := by
  cases st <;> decide

/-- Every response is sent as a word of the one format, with the response's status. -/
theorem Response.word_eq_rspWord (r : Response) : ∃ k o x, r.word = rspWord r.status k o x := by
  cases r with
  | byte k o b => exact ⟨k, o, b, rfl⟩
  | written k o => exact ⟨k, o, 0#8, rfl⟩
  | installed k => exact ⟨k, 0#16, 0#8, rfl⟩
  | decoded k o => exact ⟨k, o, 0#8, rfl⟩
  | fault r =>
    cases r with
    | configurationError k o => exact ⟨k, o, 0#8, rfl⟩
    | deviceFault k o f => exact ⟨k, o, f, rfl⟩

/-- No response has status 11, and the four zero bits of each are zero. -/
theorem Response.word_fields (r : Response) :
    r.word.extractLsb' 30 2 ≠ 0b11#2 ∧ r.word.extractLsb' 24 4 = 0#4 := by
  obtain ⟨k, o, x, hword⟩ := r.word_eq_rspWord
  obtain ⟨hstatus, hzero⟩ := rspWord_fields r.status k o x
  rw [hword, hstatus]
  exact ⟨r.status.code_ne_three, hzero⟩

/-- Settles O37: each outcome's word is `rspWord` of its fields, as a number. -/
theorem responseWords : Obligations.ResponseWords := by
  refine ⟨fun k o b => ?_, fun k o => ?_, fun k => ?_, fun k o => ?_, fun k o => ?_, fun k o f => ?_,
    Response.word_fields⟩ <;>
    simp [Response.word, FaultRecord.word, rspWord_toNat, Status.code]

end Sys2Proof.Machine
end

section
/-! SUPPORT. What is refused: an INSTALL whose identifier names no device, and nothing else (spec/30_encoding.md R57,
R64). -/

namespace Sys2Proof.Machine

/-- The guard of a faulted block refuses nothing by itself. -/
theorem unlessFaulted_ne_refused {s : State} {go : Host.Outcome State Fault Refusal} {r : Refusal}
    (hgo : go ≠ .refused r) : unlessFaulted s go ≠ .refused r := by
  rcases unlessFaulted_cases s go with ⟨-, e⟩ | ⟨_, -, e⟩ <;> rw [e]
  · exact hgo
  · nofun

/-- The common path of READ and WRITE refuses nothing by itself. -/
theorem withDevice_ne_refused {a : Address} {s : State} {go : Target → DevId → Device → Host.Outcome State Fault Refusal}
    {r : Refusal} (hgo : ∀ t d dev, go t d dev ≠ .refused r) : withDevice a s go ≠ .refused r := by
  rcases withDevice_cases a s go with ⟨-, e⟩ | ⟨d, dev, -, -, e⟩ | ⟨_, -, -, e⟩ <;> rw [e]
  · nofun
  · exact hgo _ d dev
  · nofun

/-- READ is never refused. -/
theorem execRead_ne_refused (a : Address) (s : State) (r : Refusal) : execRead a s ≠ .refused r :=
  unlessFaulted_ne_refused (withDevice_ne_refused nofun)

/-- WRITE is never refused. -/
theorem execWrite_ne_refused (a : Address) (v : Byte) (s : State) (r : Refusal) : execWrite a v s ≠ .refused r :=
  unlessFaulted_ne_refused (withDevice_ne_refused nofun)

/-- INSTALL is performed by `execInstall`. -/
theorem exec_install (k : Kind) (d : DevId) (s : State) : exec (.install k d) s = execInstall k d s := rfl

/-- INSTALL is refused exactly when its identifier names no device, by that name. -/
theorem execInstall_eq_refused_iff {k : Kind} {d : DevId} {s : State} {r : Refusal} :
    execInstall k d s = .refused r ↔ s.ndev ≤ d.toNat ∧ r = .noSuchDevice d := by
  unfold execInstall
  split
  next hd => exact iff_of_false (unlessFaulted_ne_refused nofun) (by omega)
  next hd => rw [Host.Outcome.refused.injEq, eq_comm, and_iff_right (Nat.le_of_not_lt hd)]

/-- An instruction is ill formed exactly when it is an INSTALL past the pool. -/
theorem wf_eq_false_iff (i : Instr) (n : Nat) : i.wf n = false ↔ ∃ k d, i = .install k d ∧ n ≤ d.toNat := by
  cases i with
  | install k d => simp [Instr.wf]
  | _ => exact iff_of_false nofun nofun

/-- A refused instruction is an INSTALL past the pool, refused by that name. -/
theorem exec_eq_refused_iff (i : Instr) (s : State) (r : Refusal) :
    exec i s = .refused r ↔ ∃ k d, i = .install k d ∧ s.ndev ≤ d.toNat ∧ r = .noSuchDevice d := by
  cases i with
  | read a => exact iff_of_false (execRead_ne_refused a s r) nofun
  | write a v => exact iff_of_false (execWrite_ne_refused a v s r) nofun
  | install k d => simp [exec_install, execInstall_eq_refused_iff]
  | _ => exact iff_of_false nofun nofun

/-- Settles O25: INSTALL past the pool is the one refusal of `exec` and the one ill-formed instruction, and a
status that is 3 as a number would be status 11. -/
theorem onlyIllFormedInstallIsRefused : Obligations.OnlyIllFormedInstallIsRefused := by
  refine ⟨fun i s => ⟨?_, wf_eq_false_iff i s.ndev⟩, fun r h => ?_⟩
  · rw [wf_eq_false_iff]
    constructor
    · rintro ⟨r, h⟩
      obtain ⟨k, d, hi, hd, -⟩ := (exec_eq_refused_iff i s r).1 h
      exact ⟨k, d, hi, hd⟩
    · rintro ⟨k, d, hi, hd⟩
      exact ⟨_, (exec_eq_refused_iff i s _).2 ⟨k, d, hi, hd, rfl⟩⟩
  · obtain ⟨hstatus, -⟩ := r.word_fields
    refine hstatus (BitVec.eq_of_toNat_eq ?_)
    rw [toNat_field, h]
    rfl

/-- The low byte of a request word, as a number's remainder. -/
theorem reqData_eq_ofNat (w : BitVec 32) : reqData w = BitVec.ofNat 8 (w.toNat % 2 ^ 8) := by
  apply BitVec.eq_of_toNat_eq
  rw [reqData, toNat_field, BitVec.toNat_ofNat, pow_zero, Nat.div_one, Nat.mod_mod]

/-- The operation code of a request word, as a number's quotient. -/
theorem reqOp_toNat (w : BitVec 32) : (reqOp w).toNat = w.toNat / 2 ^ 30 := by
  have := w.isLt
  rw [reqOp, toNat_field]
  omega

/-- Settles O24: operation 2 is INSTALL, and its identifier is compared with the size of the pool. -/
theorem installOfNoDeviceIsRefused : Obligations.InstallOfNoDeviceIsRefused := by
  intro w s hop
  have hdecode := decodeRequest_of_op_install (BitVec.eq_of_toNat_eq ((reqOp_toNat w).trans hop))
  have hid : (BitVec.ofNat 8 (w.toNat % 2 ^ 8)).toNat = w.toNat % 2 ^ 8 := by
    rw [BitVec.toNat_ofNat, Nat.mod_mod]
  rw [reqData_eq_ofNat] at hdecode
  rw [hdecode]
  refine ⟨_, rfl, ?_, fun hd => ?_⟩
  · rw [Instr.wf, decide_eq_true_iff, hid]
  · rw [exec_install, execInstall_eq_refused_iff, hid]
    exact ⟨hd, rfl⟩

end Sys2Proof.Machine
end

section
/-! SUPPORT. The four region rules: the bands of the mirrored kinds, and the kinds whose offset fixes the address
(spec/40_decode.md R70 to R73). -/

namespace Sys2Proof.Machine

/-- DECODE answers the kind and offset that the address decodes to. -/
theorem exec_decode_of_eq {a : Address} {k : Kind} {o : Offset} (h : decodeAddress a = ⟨k, o⟩) (s : State) :
    exec (.decode a) s = .next { s with responses := .decoded k o :: s.responses } := by
  rw [exec_decode, h]
  rfl

/-! ### The mirrored kinds -/

/-- Band `band` of RAM repeats the offsets. -/
theorem decodeAddress_ram_band {band o : Nat} (hband : band < 4) (ho : o < 0x0800) :
    decodeAddress (BitVec.ofNat 16 (band * 0x0800 + o)) = ⟨.internalRAM, BitVec.ofNat 16 o⟩ := by
  have ha : (BitVec.ofNat 16 (band * 0x0800 + o)).toNat = band * 0x0800 + o := by
    rw [BitVec.toNat_ofNat, Nat.mod_eq_of_lt (by omega)]
  rw [decodeAddress_ram (by omega), ha, Nat.mul_add_mod_of_lt ho]

/-- Band `band` of the PPU registers repeats the eight offsets. -/
theorem decodeAddress_ppu_band {band o : Nat} (hband : band < 1024) (ho : o < 8) :
    decodeAddress (BitVec.ofNat 16 (0x2000 + 8 * band + o)) = ⟨.ppuRegisters, BitVec.ofNat 16 o⟩ := by
  have ha : (BitVec.ofNat 16 (0x2000 + 8 * band + o)).toNat = 0x2000 + 8 * band + o := by
    rw [BitVec.toNat_ofNat, Nat.mod_eq_of_lt (by omega)]
  have hmod : (0x2000 + 8 * band + o) % 0x0008 = o := by omega
  rw [decodeAddress_ppu (by omega) (by omega), ha, hmod]

/-- `decode` of a PPU address gives one of the eight offsets. -/
theorem decodeAddress_ppu_offset_lt {a : Address} (h : 0x2000 ≤ a.toNat) (h' : a.toNat ≤ 0x3FFF) :
    (decodeAddress a).offset.toNat < 8 := by
  rw [decodeAddress_ppu h h', BitVec.toNat_ofNat]
  omega

/-! ### The kinds that are not mirrored -/

/-- The offset of an APU or I/O register counts from $4000. -/
theorem toNat_of_decodeAddress_apu {a : Address} (hk : (decodeAddress a).kind = .apuIORegisters) :
    0x4000 + (decodeAddress a).offset.toNat = a.toNat := by
  rcases decodeAddress_cases a with ⟨_, e⟩ | ⟨_, _, e⟩ | ⟨h, _, e⟩ | ⟨_, e⟩ <;> rw [e] at hk
  · cases hk
  · cases hk
  · rw [e, BitVec.toNat_ofNat]
    omega
  · cases hk

/-- The offset of a Cartridge address counts from $4020. -/
theorem toNat_of_decodeAddress_cartridge {a : Address} (hk : (decodeAddress a).kind = .cartridge) :
    0x4020 + (decodeAddress a).offset.toNat = a.toNat := by
  have h := (decodeAddress_kind_eq_cartridge_iff a).1 hk
  rw [decodeAddress_cartridge h, BitVec.toNat_ofNat]
  omega

/-- No two addresses alias in a kind whose offset counts from a fixed base. -/
theorem eq_of_decodeAddress_eq {k : Kind} {base : Nat}
    (hbase : ∀ {a : Address}, (decodeAddress a).kind = k → base + (decodeAddress a).offset.toNat = a.toNat)
    {a a' : Address} (hk : (decodeAddress a).kind = k) (h : decodeAddress a = decodeAddress a') : a = a' := by
  have hk' : (decodeAddress a').kind = k := by rw [← h, hk]
  apply BitVec.eq_of_toNat_eq
  calc
    a.toNat = base + (decodeAddress a).offset.toNat := (hbase hk).symm
    _ = base + (decodeAddress a').offset.toNat := by rw [h]
    _ = a'.toNat := hbase hk'

/-! ### The obligations -/

/-- Settles O6: an address of RAM is `band * $0800 + o`, and the offset is `o`. -/
theorem internalRamRegionRule : Obligations.InternalRamRegionRule := by
  refine ⟨fun a h => ⟨decodeAddress_ram h, Nat.le_of_lt_succ (decodeAddress_ram_offset_lt h)⟩,
    fun _ _ => decodeAddress_ram_band, ?_, ?_, ?_, ?_, ?_, ?_, ?_, ?_, exec_decode_of_eq (by decide)⟩
  all_goals decide

/-- Settles O7: an address of the PPU registers is `$2000 + 8 * band + o`, and the offset is `o`. -/
theorem ppuRegistersRegionRule : Obligations.PpuRegistersRegionRule := by
  refine ⟨fun a h h' => ⟨decodeAddress_ppu h h', Nat.le_of_lt_succ (decodeAddress_ppu_offset_lt h h'), by omega⟩,
    fun _ _ => decodeAddress_ppu_band, ?_, ?_, ?_, ?_, ?_, ?_, ?_, exec_decode_of_eq (by decide)⟩
  all_goals decide

/-- Settles O8: the offset counts from $4000, so it fixes the address. -/
theorem apuIoRegistersRegionRule : Obligations.ApuIoRegistersRegionRule := by
  refine ⟨fun a h h' => ⟨decodeAddress_apu h h', ?_⟩,
    fun _ _ => eq_of_decodeAddress_eq toNat_of_decodeAddress_apu, by decide, by decide, by decide,
    exec_decode_of_eq (by decide)⟩
  have := toNat_of_decodeAddress_apu (congrArg Target.kind (decodeAddress_apu h h'))
  omega

/-- Settles O9: the offset counts from $4020, so it fixes the address. -/
theorem cartridgeRegionRule : Obligations.CartridgeRegionRule := by
  refine ⟨fun a h => ⟨decodeAddress_cartridge h, ?_⟩,
    fun _ _ => eq_of_decodeAddress_eq toNat_of_decodeAddress_cartridge, ?_, ?_, ?_, ?_, ?_, ?_,
    exec_decode_of_eq (by decide)⟩
  · have := toNat_of_decodeAddress_cartridge ((decodeAddress_kind_eq_cartridge_iff a).2 h)
    have := a.isLt
    omega
  all_goals decide

end Sys2Proof.Machine
end

section
/-! SUPPORT. DECODE: its request word as a number, and `decode` as one four-way case (spec/30_encoding.md R54;
spec/40_decode.md R69, R75, R80). -/

namespace Sys2Proof.Machine

/-- A request word as a number. -/
theorem reqWord_toNat (op kind : BitVec 2) (a : Address) (x : Byte) :
    (reqWord op kind a x).toNat = op.toNat * 2 ^ 30 + kind.toNat * 2 ^ 28 + a.toNat * 2 ^ 8 + x.toNat := by
  simp only [reqWord, toNat_append_add, BitVec.toNat_ofNat]
  omega

/-- The word of DECODE: its number, and that it decodes to DECODE. -/
theorem encode_decode_word (a : Address) :
    ∃ w, encode (.decode a) = .request w ∧ w.toNat = 0xC0000000 + a.toNat * 2 ^ 8 ∧ decodeRequest w = .decode a := by
  obtain ⟨-, -, -, hdecode⟩ := decodeRequest_fields 0#2 0#4 a 0#8
  refine ⟨_, rfl, ?_, hdecode⟩
  simp [reqWord_toNat]

/-- `decode` as one case on the address as a number. -/
theorem decodeAddress_eq_ite (a : Address) :
    decodeAddress a =
      if a.toNat ≤ 0x1FFF then ⟨.internalRAM, BitVec.ofNat 16 (a.toNat % 0x0800)⟩
      else if a.toNat ≤ 0x3FFF then ⟨.ppuRegisters, BitVec.ofNat 16 (a.toNat % 0x0008)⟩
      else if a.toNat ≤ 0x401F then ⟨.apuIORegisters, BitVec.ofNat 16 (a.toNat - 0x4000)⟩
      else ⟨.cartridge, BitVec.ofNat 16 (a.toNat - 0x4020)⟩ := by
  rcases decodeAddress_cases a with ⟨h, e⟩ | ⟨h, h', e⟩ | ⟨h, h', e⟩ | ⟨h, e⟩ <;> rw [e]
  · rw [if_pos h]
  · rw [if_neg (by omega), if_pos h']
  · rw [if_neg (by omega), if_neg (by omega), if_pos h']
  · rw [if_neg (by omega), if_neg (by omega), if_neg (by omega)]

/-- Settles O17: DECODE looks at no slot and no latch, and answers what the address decodes to. -/
theorem decodeAnswersInEveryState : Obligations.DecodeAnswersInEveryState :=
  fun a s => ⟨encode_decode_word a, decodeAddress_eq_ite a, exec_decode_of_eq rfl s, rfl⟩

end Sys2Proof.Machine
end

section
/-! SUPPORT. READ and WRITE at an address whose decoded kind and offset are named: their words, and what each does with a
fault latched, with an empty slot and with a bound one; and INSTALL with a fault latched (spec/30_encoding.md R54;
spec/41_access.md R81, R82, R87; spec/42_install.md R97). -/

namespace Sys2Proof.Machine

/-! ### The request words -/

/-- The word of READ: its number, and that it decodes to READ. -/
theorem encode_read_word (a : Address) :
    ∃ w, encode (.read a) = .request w ∧ w.toNat = a.toNat * 2 ^ 8 ∧ decodeRequest w = .read a := by
  obtain ⟨hread, -, -, -⟩ := decodeRequest_fields 0#2 0#4 a 0#8
  refine ⟨_, rfl, ?_, hread⟩
  simp [reqWord_toNat]

/-- The word of WRITE: its number, and that it decodes to WRITE. -/
theorem encode_write_word (a : Address) (v : Byte) :
    ∃ w, encode (.write a v) = .request w ∧ w.toNat = 0x40000000 + a.toNat * 2 ^ 8 + v.toNat ∧
      decodeRequest w = .write a v := by
  obtain ⟨-, hwrite, -, -⟩ := decodeRequest_fields 0#2 0#4 a v
  refine ⟨_, rfl, ?_, hwrite⟩
  simp [reqWord_toNat]

/-! ### With a fault latched -/

/-- The top two bits of a latched response are the status of a ConfigurationError or of a DeviceFault. -/
theorem FaultRecord.word_status (r : FaultRecord) : r.word.toNat / 2 ^ 30 = 1 ∨ r.word.toNat / 2 ^ 30 = 2 := by
  rw [← reqOp_toNat]
  cases r with
  | configurationError k o => exact .inl (congrArg BitVec.toNat (rspWord_fields .configurationError k o 0#8).1)
  | deviceFault k o f => exact .inr (congrArg BitVec.toNat (rspWord_fields .deviceFault k o f).1)

section
variable {s : State} {r : FaultRecord} (hf : s.fault = some r)
include hf

/-- READ answers the latched response. -/
theorem exec_read_faulted (a : Address) : exec (.read a) s = .next (s.respond (.fault r)) :=
  unlessFaulted_set hf _

/-- WRITE answers the latched response. -/
theorem exec_write_faulted (a : Address) (v : Byte) : exec (.write a v) s = .next (s.respond (.fault r)) :=
  unlessFaulted_set hf _

/-- INSTALL of a device of the pool answers the latched response. -/
theorem exec_install_faulted (k : Kind) {d : DevId} (hd : d.toNat < s.ndev) :
    exec (.install k d) s = .next (s.respond (.fault r)) := by
  rw [exec_install, execInstall, if_pos hd, unlessFaulted_set hf]

end

/-! ### With no fault latched -/

section
variable {a : Address} {v : Byte} {s : State} {k : Kind} {o : Offset}

/-- READ of a kind whose slot is empty takes a ConfigurationError. -/
theorem exec_read_empty (ha : decodeAddress a = ⟨k, o⟩) (hf : s.fault = none) (hk : s.table.get k = none) :
    exec (.read a) s = .next (takeFault (.configurationError k o) s) := by
  rw [exec_read, execRead, unlessFaulted_clear hf, withDevice_empty (by rw [ha, hk]), ha]

/-- WRITE to a kind whose slot is empty takes a ConfigurationError. -/
theorem exec_write_empty (ha : decodeAddress a = ⟨k, o⟩) (hf : s.fault = none) (hk : s.table.get k = none) :
    exec (.write a v) s = .next (takeFault (.configurationError k o) s) := by
  rw [exec_write, execWrite, unlessFaulted_clear hf, withDevice_empty (by rw [ha, hk]), ha]

variable {d : DevId} {dev dev' : Device}

/-- READ of a bound kind makes one exchange and ends with what the device yielded. -/
theorem exec_read_exchange {res : ReadResult} (ha : decodeAddress a = ⟨k, o⟩) (hf : s.fault = none)
    (hk : s.table.get k = some d) (hd : s.device d = some dev) (hdev : deviceRead d s.draws o dev = (dev', res)) :
    exec (.read a) s = .next (finishRead ⟨k, o⟩
      (((s.putDevice d dev').advanceDraws (drawsUsed dev)).logExchange (.read k d o res), res)) := by
  rw [exec_read, execRead_bound hf (by rw [ha, hk]) hd, ha, devRead, hdev]

/-- WRITE to a bound kind makes one exchange and ends with what the device yielded. -/
theorem exec_write_exchange {res : WriteResult} (ha : decodeAddress a = ⟨k, o⟩) (hf : s.fault = none)
    (hk : s.table.get k = some d) (hd : s.device d = some dev) (hdev : deviceWrite d s.draws o v dev = (dev', res)) :
    exec (.write a v) s = .next (finishWrite ⟨k, o⟩
      (((s.putDevice d dev').advanceDraws (drawsUsed dev)).logExchange (.write k d o v res), res)) := by
  rw [exec_write, execWrite_bound hf (by rw [ha, hk]) hd, ha, devWrite, hdev]

end

/-! ### The obligations -/

/-- Settles O18: the latch and the slot of the decoded kind choose the case, and the device's result its end. -/
theorem readOperation : Obligations.ReadOperation := by
  intro a s k o ha
  refine ⟨encode_read_word a, fun r hf => exec_read_faulted hf a, exec_read_empty ha, ?_⟩
  intro d dev dev' hf hk hd
  exact ⟨fun b hdev => exec_read_exchange ha hf hk hd hdev, fun f hdev => exec_read_exchange ha hf hk hd hdev⟩

/-- Settles O19: the latch and the slot of the decoded kind choose the case, and the device's result its end. -/
theorem writeOperation : Obligations.WriteOperation := by
  intro a v s k o ha
  refine ⟨encode_write_word a v, fun r hf => exec_write_faulted hf a v, exec_write_empty ha, ?_⟩
  intro d dev dev' hf hk hd
  exact ⟨fun hdev => exec_write_exchange ha hf hk hd hdev, fun f hdev => exec_write_exchange ha hf hk hd hdev⟩

/-- Settles O40: the latch stands before the table and the devices, and DECODE does not look at it. -/
theorem faultedBlockRefusesAccesses : Obligations.FaultedBlockRefusesAccesses :=
  fun s r hf => ⟨rfl, r.word_status, exec_read_faulted hf, exec_write_faulted hf,
    fun k _ hd => exec_install_faulted hf k hd, fun a => exec_decode a s⟩

end Sys2Proof.Machine
end

section
/-! SUPPORT. The byte of an access at the device port and at the response port: the exchange words as numbers and what they
yield (spec/30_encoding.md R58, R60; spec/41_access.md R85). -/

namespace Sys2Proof.Machine

/-! ### The data byte of each word -/

/-- The low byte of a response word is its data. -/
theorem rspWord_data (st : Status) (k : Kind) (o : Offset) (x : Byte) : (rspWord st k o x).toNat % 2 ^ 8 = x.toNat := by
  have := x.isLt
  rw [rspWord_toNat]
  omega

/-- The low byte of a WRITE's exchange word is the value written. -/
theorem dreqWrite_data (o : Offset) (v : Byte) : (dreqWrite o v).toNat % 2 ^ 8 = v.toNat := by
  rw [dreqWrite, toNat_append_add, Nat.mul_add_mod_of_lt v.isLt]

/-- The byte of a device's answer word, as a number. -/
theorem drspByte_toNat (w : BitVec 9) : (drspByte w).toNat = w.toNat % 2 ^ 8 := by
  rw [drspByte, toNat_field, pow_zero, Nat.div_one]

/-- The fault bit of a device's answer word is clear exactly below 2 ^ 8. -/
theorem drspFault_eq_zero_iff (w : BitVec 9) : drspFault w = 0#1 ↔ w.toNat < 2 ^ 8 := by
  have := w.isLt
  rw [← BitVec.toNat_inj, drspFault, toNat_field, BitVec.toNat_ofNat]
  omega

/-! ### What a device's answer word makes of an access -/

section
variable {w : BitVec 9}

/-- READ of an answer with the fault bit clear. -/
theorem finishRead_of_lt (t : Target) (s : State) (h : w.toNat < 2 ^ 8) :
    finishRead t (s, readResultOf w) = s.respond (.byte t.kind t.offset (drspByte w)) := by
  rw [readResultOf, if_pos ((drspFault_eq_zero_iff w).2 h), finishRead_ok]

/-- READ of an answer with the fault bit set. -/
theorem finishRead_of_not_lt (t : Target) (s : State) (h : ¬ w.toNat < 2 ^ 8) :
    finishRead t (s, readResultOf w) = takeFault (.deviceFault t.kind t.offset (drspByte w)) s := by
  rw [readResultOf, if_neg (mt (drspFault_eq_zero_iff w).1 h), finishRead_fault]

/-- WRITE of an answer with the fault bit clear. -/
theorem finishWrite_of_lt (t : Target) (s : State) (h : w.toNat < 2 ^ 8) :
    finishWrite t (s, writeResultOf w) = s.respond (.written t.kind t.offset) := by
  rw [writeResultOf, if_pos ((drspFault_eq_zero_iff w).2 h), finishWrite_ok]

/-- WRITE of an answer with the fault bit set. -/
theorem finishWrite_of_not_lt (t : Target) (s : State) (h : ¬ w.toNat < 2 ^ 8) :
    finishWrite t (s, writeResultOf w) = takeFault (.deviceFault t.kind t.offset (drspByte w)) s := by
  rw [writeResultOf, if_neg (mt (drspFault_eq_zero_iff w).1 h), finishWrite_fault]

/-- The response to an answer with the fault bit clear carries that answer's byte. -/
theorem byte_word_data (k : Kind) (o : Offset) (h : w.toNat < 2 ^ 8) :
    (Response.byte k o (drspByte w)).word.toNat % 2 ^ 8 = w.toNat := by
  rw [Response.word, rspWord_data, drspByte_toNat, Nat.mod_eq_of_lt h]

/-- The DeviceFault of an answer with the fault bit set carries that answer's byte. -/
theorem deviceFault_word_data (k : Kind) (o : Offset) (h : ¬ w.toNat < 2 ^ 8) :
    (FaultRecord.deviceFault k o (drspByte w)).word.toNat % 2 ^ 8 = w.toNat - 2 ^ 8 := by
  have := w.isLt
  rw [FaultRecord.word, rspWord_data, drspByte_toNat]
  omega

end

/-- Settles O22: an external device's answer word fixes the end of the access, and its byte is the data of the response. -/
theorem dataPassUnchanged : Obligations.DataPassUnchanged := by
  intro a v s k o d st ha hf hk hd
  refine ⟨⟨_, _, rfl, exec_read_exchange ha hf hk hd rfl, ?_⟩, dreqWrite_data o v,
    ⟨_, _, rfl, exec_write_exchange ha hf hk hd rfl, ?_⟩⟩
  · split
    next h =>
      rw [finishRead_of_lt _ _ h]
      exact ⟨_, rfl, rfl, byte_word_data k o h⟩
    next h =>
      rw [finishRead_of_not_lt _ _ h]
      exact ⟨_, rfl, rfl, rfl, deviceFault_word_data k o h⟩
  · split
    next h =>
      rw [finishWrite_of_lt _ _ h]
      rfl
    next h =>
      rw [finishWrite_of_not_lt _ _ h]
      exact ⟨_, rfl, rfl, rfl, deviceFault_word_data k o h⟩

end Sys2Proof.Machine
end

section
/-! SUPPORT. INSTALL: its request word, and the step that binds a device of the pool (spec/30_encoding.md R54;
spec/42_install.md R91). -/

namespace Sys2Proof.Machine

/-- The word of INSTALL: its number, and that it decodes to INSTALL. -/
theorem encode_install_word (k : Kind) (d : DevId) :
    ∃ w, encode (.install k d) = .request w ∧ w.toNat = 0x80000000 + k.code.toNat * 2 ^ 28 + d.toNat ∧
      decodeRequest w = .install k d := by
  obtain ⟨-, -, hinstall, -⟩ := decodeRequest_fields k.code 0#4 0#16 d
  rw [Kind.ofCode_code] at hinstall
  refine ⟨_, rfl, ?_, hinstall⟩
  simp [reqWord_toNat]

/-- INSTALL of a device of the pool, with no fault latched, binds it and says so. -/
theorem exec_install_clear {s : State} {d : DevId} (hf : s.fault = none) (hd : d.toNat < s.ndev) (k : Kind) :
    exec (.install k d) s = .next ((s.bind k d).respond (.installed k)) := by
  rw [exec_install, execInstall, if_pos hd, unlessFaulted_clear hf]

/-- Settles O23: the latch chooses between the latched response and `bind`, which sets the slot of `k` and no other. -/
theorem installBindsTheDevice : Obligations.InstallBindsTheDevice := by
  intro k d s hd
  refine ⟨encode_install_word k d, fun hf => ?_, fun r hf => exec_install_faulted hf k hd⟩
  exact ⟨s.table.bind k d, exec_install_clear hf hd k, DeviceTable.get_bind_same _ k d,
    fun _ h => DeviceTable.get_bind_other _ h d⟩

end Sys2Proof.Machine
end

section
/-! SUPPORT. After fault entry: a request at the request port, DECODE excepted, is answered from the latch
(spec/41_access.md R87; spec/42_install.md R97; spec/60_exceptions.md R104). -/

namespace Sys2Proof.Machine

/-- An instruction with no word at the AddressDecoder's port is one of the four request operations. -/
theorem request_cases {i : Instr} (h : ∀ x, encode i ≠ .address x) :
    (∃ a, i = .read a) ∨ (∃ a v, i = .write a v) ∨ (∃ k d, i = .install k d) ∨ ∃ a, i = .decode a := by
  cases i with
  | read a => exact .inl ⟨a, rfl⟩
  | write a v => exact .inr (.inl ⟨a, v, rfl⟩)
  | install k d => exact .inr (.inr (.inl ⟨k, d, rfl⟩))
  | decode a => exact .inr (.inr (.inr ⟨a, rfl⟩))
  | _ => exact absurd rfl (h _)

/-- While a fault is latched, every well-formed READ, WRITE or INSTALL answers the latched response. -/
theorem exec_request_faulted {s : State} {r : FaultRecord} {i : Instr} (hf : s.fault = some r)
    (hwf : i.wf s.ndev = true) (hdecode : ∀ a, i ≠ .decode a) (hrequest : ∀ x, encode i ≠ .address x) :
    exec i s = .next (s.respond (.fault r)) := by
  rcases request_cases hrequest with ⟨a, rfl⟩ | ⟨a, v, rfl⟩ | ⟨k, d, rfl⟩ | ⟨a, rfl⟩
  · exact exec_read_faulted hf a
  · exact exec_write_faulted hf a v
  · exact exec_install_faulted hf k (of_decide_eq_true hwf)
  · exact absurd rfl (hdecode a)

/-- Settles O38: fault entry is the latch and the response, and from then on the latch answers every request but DECODE. -/
theorem faultEntry : Obligations.FaultEntry := fun _ _ _ s =>
  ⟨takeFault_eq s _, rfl, takeFault_eq s _, rfl, fun r _ hwf hdecode hrequest =>
    exec_request_faulted (takeFault_fault s r) hwf hdecode hrequest⟩

end Sys2Proof.Machine
end

section
/-! SUPPORT. Reset: the block's own registers return to their reset values, and the Device Port and the devices are left
alone (spec/10_state.md R23; spec/70_reset_and_hazards.md R114, R115). -/

namespace Sys2Proof.Machine

/-- Every slot is Empty after a reset. -/
theorem resetBlock_table_get (s : State) (k : Kind) : (resetBlock s).table.get k = none := by
  rw [resetBlock_table, DeviceTable.get_empty]

/-- Settles O45: a reset presented is `resetBlock` of the state without it, which writes the table, the latch and the record
of ended runs and no other field. -/
theorem resetTouchesNoDevice : Obligations.ResetTouchesNoDevice := by
  intro s rest h
  refine ⟨resetBlock (s.setInputs rest), step_reset h, resetBlock_table_get _, resetBlock_fault _, ?_, ?_, ?_, ?_⟩
  · rw [resetBlock_devices, State.setInputs_devices]
  · rw [resetBlock_portLog, State.setInputs_portLog]
  · rw [resetBlock_responses, State.setInputs_responses]
  · rw [resetBlock_inputs, State.setInputs_inputs]

end Sys2Proof.Machine
end

section
/-! SUPPORT. The opcode table: no two rows share a word, so the row a word lies in is the row of the instruction it spells,
and the row and the word fix the instruction (spec/30_encoding.md R62, R68). -/

namespace Sys2Proof.Machine

/-! ### Rows that share a word -/

/-- Two rows that cover one word have its width, and agree where both masks look. -/
theorem TableRow.agree_of_covers {r r' : TableRow} {x : PortWord} (h : r.covers x = true) (h' : r'.covers x = true) :
    r.width = r'.width ∧ r.pattern &&& r'.mask = r'.pattern &&& r.mask := by
  simp only [TableRow.covers, Bool.and_eq_true, beq_iff_eq] at h h'
  obtain ⟨hw, hp⟩ := h
  obtain ⟨hw', hp'⟩ := h'
  refine ⟨hw.trans hw'.symm, ?_⟩
  rw [← hp, ← hp', Nat.and_assoc, Nat.and_assoc, Nat.and_comm r.mask]

/-- No two rows of the table agree where both masks look. -/
theorem tableRows_eq_of_agree : ∀ r ∈ tableRows, ∀ r' ∈ tableRows,
    r.width = r'.width ∧ r.pattern &&& r'.mask = r'.pattern &&& r.mask → r = r' := by
  decide

/-- A word lies in one row of the table at most. -/
theorem tableRows_eq_of_covers {r r' : TableRow} {x : PortWord} (hr : r ∈ tableRows) (hr' : r' ∈ tableRows)
    (h : r.covers x = true) (h' : r'.covers x = true) : r = r' :=
  tableRows_eq_of_agree r hr r' hr' (TableRow.agree_of_covers h h')

/-- The rows that cover a word are the one row, when there is one. -/
theorem tableRows_filter_covers {r : TableRow} {x : PortWord} (hr : r ∈ tableRows) (h : r.covers x = true) :
    tableRows.filter (fun r => r.covers x) = [r] := by
  have hiff : ∀ r' ∈ tableRows, r'.covers x = (r' == r) := fun r' hr' => by
    rw [Bool.eq_iff_iff, beq_iff_eq]
    exact ⟨fun h' => tableRows_eq_of_covers hr' hr h' h, fun e => e ▸ h⟩
  rw [List.filter_congr hiff, List.filter_beq, List.count_eq_one_of_mem (by decide) hr, List.replicate_one]

/-! ### The row of an instruction -/

/-- Every instruction has its row in the table. -/
theorem row_mem (i : Instr) : i.row ∈ tableRows := by
  cases i <;> simp [Instr.row, tableRows]

/-- The encoder's word lies in the instruction's row. -/
theorem row_covers_encode (i : Instr) : i.row.covers (encode i) = true := by
  cases i with
  | read a => exact Laws.RowMatch.read a
  | write a v => exact Laws.RowMatch.write a v
  | install k d => exact Laws.RowMatch.install k d
  | decode a => exact Laws.RowMatch.decode a
  | regionInternalRAM low => exact Laws.RowMatch.regionInternalRAM low
  | regionPPURegisters low => exact Laws.RowMatch.regionPPURegisters low
  | regionAPUIORegisters low => exact Laws.RowMatch.regionAPUIORegisters low
  | regionCartridge4020 low => exact Laws.RowMatch.regionCartridge4020 low
  | regionCartridge4040 low => exact Laws.RowMatch.regionCartridge4040 low
  | regionCartridge4080 low => exact Laws.RowMatch.regionCartridge4080 low
  | regionCartridge4100 low => exact Laws.RowMatch.regionCartridge4100 low
  | regionCartridge4200 low => exact Laws.RowMatch.regionCartridge4200 low
  | regionCartridge4400 low => exact Laws.RowMatch.regionCartridge4400 low
  | regionCartridge4800 low => exact Laws.RowMatch.regionCartridge4800 low
  | regionCartridge5000 low => exact Laws.RowMatch.regionCartridge5000 low
  | regionCartridge6000 low => exact Laws.RowMatch.regionCartridge6000 low
  | regionCartridge8000 low => exact Laws.RowMatch.regionCartridge8000 low

/-- A request word is its operation code above its other thirty bits. -/
theorem request_toNat_eq_op_append (w : BitVec 32) : w.toNat = (reqOp w ++ w.extractLsb' 0 30).toNat := by
  have := w.isLt
  rw [toNat_append_add, reqOp_toNat, toNat_field]
  omega

/-- A request word lies in the row of the operation it spells. -/
theorem row_decodeRequest_covers (w : BitVec 32) : (decodeRequest w).row.covers (.request w) = true := by
  have hw := request_toNat_eq_op_append w
  rcases op_cases (reqOp w) with h | h | h | h
  · rw [decodeRequest_of_op_read h]
    exact Laws.RowMatch.covers_request _ _ _ w hw (by rw [h]; decide)
  · rw [decodeRequest_of_op_write h]
    exact Laws.RowMatch.covers_request _ _ _ w hw (by rw [h]; decide)
  · rw [decodeRequest_of_op_install h]
    exact Laws.RowMatch.covers_request _ _ _ w hw (by rw [h]; decide)
  · rw [decodeRequest_of_op_decode h]
    exact Laws.RowMatch.covers_request _ _ _ w hw (by rw [h]; decide)

/-- A port word lies in the row of the instruction it spells. -/
theorem row_decodePortWord_covers (x : PortWord) : (decodePortWord x).row.covers x = true := by
  cases x with
  | request w => exact row_decodeRequest_covers w
  | address a =>
    have h := row_covers_encode (decodeRegion a)
    rwa [encode_decodeRegion] at h

/-- The decoder keeps the row of what the encoder wrote. -/
theorem row_decodePortWord_encode (i : Instr) : (decodePortWord (encode i)).row = i.row :=
  tableRows_eq_of_covers (row_mem _) (row_mem i) (row_decodePortWord_covers _) (row_covers_encode i)

/-- Within one row of the AddressDecoder's port the word fixes the instruction: the rows of two constructors differ, and
under one constructor the operand is what the row's fixed bits leave of the word. -/
theorem eq_of_row_eq_of_encode_eq {i j : Instr} {a : Address} (hrow : i.row = j.row) (hi : encode i = .address a)
    (hj : encode j = .address a) : i = j := by
  cases i <;> cases hi <;> cases j <;> first
    | exact congrArg _ ((BitVec.append_right_inj _).1 (PortWord.address.inj hj).symm)
    | simp [Instr.row] at hrow

/-- Decoding the word of a request operation gives the operation back. -/
theorem decodePortWord_encode_request {i : Instr} (h : ∀ x, encode i ≠ .address x) : decodePortWord (encode i) = i := by
  rcases request_cases h with ⟨a, rfl⟩ | ⟨a, v, rfl⟩ | ⟨k, d, rfl⟩ | ⟨a, rfl⟩
  · obtain ⟨w, hw, -, hdecode⟩ := encode_read_word a
    rw [hw, decodePortWord, hdecode]
  · obtain ⟨w, hw, -, hdecode⟩ := encode_write_word a v
    rw [hw, decodePortWord, hdecode]
  · obtain ⟨w, hw, -, hdecode⟩ := encode_install_word k d
    rw [hw, decodePortWord, hdecode]
  · obtain ⟨w, hw, -, hdecode⟩ := encode_decode_word a
    rw [hw, decodePortWord, hdecode]

/-- Settles O1: a request word gives its fields back; an address gives back the row it lies in, and in that row only one
instruction has it. -/
theorem decodingTheEncodingGivesTheInstruction : Obligations.DecodingTheEncodingGivesTheInstruction := by
  intro i
  by_cases h : ∃ a, encode i = .address a
  · obtain ⟨a, ha⟩ := h
    refine eq_of_row_eq_of_encode_eq (row_decodePortWord_encode i) ?_ ha
    rw [ha]
    exact encode_decodeRegion a
  · exact decodePortWord_encode_request (not_exists.1 h)

/-- Settles O4: the row of the decoded instruction covers the word, and no other row does. -/
theorem eachWordIsInExactlyOneTableRow : Obligations.EachWordIsInExactlyOneTableRow :=
  fun x => tableRows_filter_covers (row_mem _) (row_decodePortWord_covers x)

/-! ### The operation map in arithmetic -/

/-- The address field as a number's quotient. -/
theorem reqAddr_eq_ofNat (w : BitVec 32) : reqAddr w = BitVec.ofNat 16 (w.toNat / 2 ^ 8) := by
  apply BitVec.eq_of_toNat_eq
  rw [reqAddr, toNat_field, BitVec.toNat_ofNat]

/-- The data field is the word's low byte. -/
theorem reqData_eq_ofNat_toNat (w : BitVec 32) : reqData w = BitVec.ofNat 8 w.toNat := by
  apply BitVec.eq_of_toNat_eq
  rw [reqData, toNat_field, BitVec.toNat_ofNat, pow_zero, Nat.div_one]

/-- The operation code, from the quotient that the word's top two bits are. -/
theorem reqOp_eq_of_div {w : BitVec 32} {op : BitVec 2} (h : w.toNat / 2 ^ 30 = op.toNat) : reqOp w = op :=
  BitVec.eq_of_toNat_eq ((reqOp_toNat w).trans h)

/-- Settles O3: the fields of the word are its quotients and remainders. -/
theorem requestWordSpellsItsOperation : Obligations.RequestWordSpellsItsOperation := by
  refine ⟨fun w => ?_, rfl, rfl, rfl, rfl⟩
  rw [← reqAddr_eq_ofNat, ← reqData_eq_ofNat_toNat]
  refine ⟨fun h => decodeRequest_of_op_read (reqOp_eq_of_div h), fun h => decodeRequest_of_op_write (reqOp_eq_of_div h),
    fun h => ⟨_, decodeRequest_of_op_install (reqOp_eq_of_div h), ?_⟩,
    fun h => decodeRequest_of_op_decode (reqOp_eq_of_div h)⟩
  rw [Kind.code_ofCode, reqKind, toNat_field]
  rfl

/-- Settles O5: each word is decoded. -/
theorem writtenOutWordsDecode : Obligations.WrittenOutWordsDecode := by
  unfold Obligations.WrittenOutWordsDecode
  decide

end Sys2Proof.Machine
end

section
/-! SUPPORT. `decode` by the high address bits, its offsets, its aliases, and the thirteen region rows as its parts
(spec/30_encoding.md R62; spec/40_decode.md R69 to R73). -/

namespace Sys2Proof.Machine

/-! ### The offset column: masks and the subtraction -/

/-- A mask of the low `n` bits is the remainder by `2 ^ n`. -/
theorem and_lowMask_eq_ofNat (a : Address) (n : Nat) (hn : n ≤ 16) :
    a &&& BitVec.ofNat 16 (2 ^ n - 1) = BitVec.ofNat 16 (a.toNat % 2 ^ n) := by
  have hpow : 2 ^ n ≤ 2 ^ 16 := Nat.pow_le_pow_right (by omega) hn
  have hpos : 0 < 2 ^ n := Nat.two_pow_pos n
  apply BitVec.eq_of_toNat_eq
  rw [BitVec.toNat_and, BitVec.toNat_ofNat, BitVec.toNat_ofNat, Nat.mod_eq_of_lt (by omega),
    Nat.and_two_pow_sub_one_eq_mod, Nat.mod_eq_of_lt ((Nat.mod_lt _ hpos).trans_le hpow)]

/-- The low `n` bits, zero-extended, are what the mask keeps. -/
theorem setWidth_lowBits_eq_and (a : Address) (n : Nat) (hn : n ≤ 16) :
    (a.extractLsb' 0 n).setWidth 16 = a &&& BitVec.ofNat 16 (2 ^ n - 1) := by
  rw [and_lowMask_eq_ofNat a n hn]
  apply BitVec.eq_of_toNat_eq
  rw [BitVec.toNat_setWidth, toNat_field, BitVec.toNat_ofNat, pow_zero, Nat.div_one]

/-- A subtraction that does not wrap, as a number. -/
theorem sub_eq_ofNat {a b : Address} (h : b.toNat ≤ a.toNat) : a - b = BitVec.ofNat 16 (a.toNat - b.toNat) := by
  apply BitVec.eq_of_toNat_eq
  rw [BitVec.toNat_sub_of_le (BitVec.le_def.2 h), BitVec.toNat_ofNat, Nat.mod_eq_of_lt (by have := a.isLt; omega)]

/-- In RAM the masked address is the offset. -/
theorem decodeAddress_eq_offsetInternalRAM {a : Address} (h : a.toNat ≤ 0x1FFF) :
    decodeAddress a = ⟨.internalRAM, offsetInternalRAM a⟩ :=
  (decodeAddress_ram h).trans (congrArg _ (and_lowMask_eq_ofNat a 11 (by omega)).symm)

/-- In the PPU registers the masked address is the offset. -/
theorem decodeAddress_eq_offsetPPURegisters {a : Address} (h : 0x2000 ≤ a.toNat) (h' : a.toNat ≤ 0x3FFF) :
    decodeAddress a = ⟨.ppuRegisters, offsetPPURegisters a⟩ :=
  (decodeAddress_ppu h h').trans (congrArg _ (and_lowMask_eq_ofNat a 3 (by omega)).symm)

/-- In the APU and I/O registers the masked address is the offset. -/
theorem decodeAddress_eq_offsetAPUIORegisters {a : Address} (h : 0x4000 ≤ a.toNat) (h' : a.toNat ≤ 0x401F) :
    decodeAddress a = ⟨.apuIORegisters, offsetAPUIORegisters a⟩ := by
  have hmod : a.toNat - 0x4000 = a.toNat % 2 ^ 5 := by omega
  rw [decodeAddress_apu h h', hmod]
  exact congrArg _ (and_lowMask_eq_ofNat a 5 (by omega)).symm

/-- In the Cartridge the address less $4020 is the offset. -/
theorem decodeAddress_eq_offsetCartridge {a : Address} (h : 0x4020 ≤ a.toNat) :
    decodeAddress a = ⟨.cartridge, offsetCartridge a⟩ :=
  (decodeAddress_cartridge h).trans (congrArg _ (sub_eq_ofNat (b := 0x4020#16) h).symm)

/-! ### The wiring -/

/-- Settles O11: the high address bits are the address's quotient, which fixes the range it lies in. -/
theorem wiringGivesTheRegionRules : Obligations.WiringGivesTheRegionRules := by
  intro a
  have ha := a.isLt
  have hram := setWidth_lowBits_eq_and a 11 (by omega)
  have hppu := setWidth_lowBits_eq_and a 3 (by omega)
  have hapu := setWidth_lowBits_eq_and a 5 (by omega)
  rw [hram, hppu, hapu]
  simp only [ne_eq, ← BitVec.toNat_inj (x := a.extractLsb' _ _), toNat_field, BitVec.toNat_ofNat]
  refine ⟨fun h => ⟨decodeAddress_eq_offsetInternalRAM (by omega), rfl⟩,
    fun h => ⟨decodeAddress_eq_offsetPPURegisters (by omega) (by omega), rfl⟩,
    fun h => ⟨decodeAddress_eq_offsetAPUIORegisters (by omega) (by omega), rfl⟩, fun h₁ h₂ h₃ => ?_⟩
  have hlow : 0x4020 ≤ a.toNat := by omega
  refine ⟨decodeAddress_eq_offsetCartridge hlow, ?_⟩
  rw [sub_eq_ofNat (b := 0x4020#16) hlow, BitVec.toNat_ofNat, BitVec.toNat_ofNat]
  omega

/-! ### The offsets of a kind -/

/-- `decode` gives an offset that its kind has. -/
theorem decodeAddress_offset_lt (a : Address) :
    (decodeAddress a).offset.toNat < Config.storageSize (decodeAddress a).kind := by
  have ha := a.isLt
  rcases decodeAddress_cases a with ⟨_, e⟩ | ⟨_, _, e⟩ | ⟨_, _, e⟩ | ⟨_, e⟩ <;> rw [e] <;>
    simp only [Config.storageSize, BitVec.toNat_ofNat] <;> omega

/-- Every offset of the APU and I/O registers is reached from $4000. -/
theorem decodeAddress_apu_base {o : Nat} (h : o < 0x0020) :
    decodeAddress (BitVec.ofNat 16 (0x4000 + o)) = ⟨.apuIORegisters, BitVec.ofNat 16 o⟩ := by
  have ha : (BitVec.ofNat 16 (0x4000 + o)).toNat = 0x4000 + o := by
    rw [BitVec.toNat_ofNat, Nat.mod_eq_of_lt (by omega)]
  rw [decodeAddress_apu (by omega) (by omega), ha, Nat.add_sub_cancel_left]

/-- Every offset of the Cartridge is reached from $4020. -/
theorem decodeAddress_cartridge_base {o : Nat} (h : o < 0xBFE0) :
    decodeAddress (BitVec.ofNat 16 (0x4020 + o)) = ⟨.cartridge, BitVec.ofNat 16 o⟩ := by
  have ha : (BitVec.ofNat 16 (0x4020 + o)).toNat = 0x4020 + o := by
    rw [BitVec.toNat_ofNat, Nat.mod_eq_of_lt (by omega)]
  rw [decodeAddress_cartridge (by omega), ha, Nat.add_sub_cancel_left]

/-- Every offset below a kind's storage size is reached from the kind's base. -/
theorem exists_decodeAddress_eq {k : Kind} {o : Nat} (h : o < Config.storageSize k) :
    ∃ a, decodeAddress a = ⟨k, BitVec.ofNat 16 o⟩ := by
  cases k with
  | internalRAM => exact ⟨_, decodeAddress_ram_band (band := 0) (by omega) h⟩
  | ppuRegisters => exact ⟨_, decodeAddress_ppu_band (band := 0) (by omega) h⟩
  | apuIORegisters => exact ⟨_, decodeAddress_apu_base h⟩
  | cartridge => exact ⟨_, decodeAddress_cartridge_base h⟩

/-- Settles O12: each range ends at its kind's last offset, and its first addresses give every offset. -/
theorem offsetsFillTheKindsRange : Obligations.OffsetsFillTheKindsRange := by
  refine ⟨decodeAddress_offset_lt, fun k o ho => ?_⟩
  have h := exists_decodeAddress_eq ho
  rwa [BitVec.ofNat_toNat, BitVec.setWidth_eq] at h

/-! ### Aliases -/

/-- Targets of one kind are equal when their offsets are, as numbers. -/
theorem target_ofNat_inj {k : Kind} {m n : Nat} (hm : m < 2 ^ 16) (hn : n < 2 ^ 16) :
    (⟨k, BitVec.ofNat 16 m⟩ : Target) = ⟨k, BitVec.ofNat 16 n⟩ ↔ m = n := by
  rw [Target.mk.injEq, and_iff_right rfl, ← BitVec.toNat_inj, BitVec.toNat_ofNat, BitVec.toNat_ofNat,
    Nat.mod_eq_of_lt hm, Nat.mod_eq_of_lt hn]

/-- `decode` answers InternalRAM up to $1FFF and nowhere else. -/
theorem decodeAddress_kind_eq_internalRAM_iff (a : Address) : (decodeAddress a).kind = .internalRAM ↔ a.toNat ≤ 0x1FFF := by
  rcases decodeAddress_cases a with ⟨h, e⟩ | ⟨h, _, e⟩ | ⟨h, _, e⟩ | ⟨h, e⟩ <;> rw [e]
  · exact iff_of_true rfl h
  · exact iff_of_false nofun (by omega)
  · exact iff_of_false nofun (by omega)
  · exact iff_of_false nofun (by omega)

/-- `decode` answers PPURegisters from $2000 to $3FFF and nowhere else. -/
theorem decodeAddress_kind_eq_ppuRegisters_iff (a : Address) :
    (decodeAddress a).kind = .ppuRegisters ↔ 0x2000 ≤ a.toNat ∧ a.toNat ≤ 0x3FFF := by
  rcases decodeAddress_cases a with ⟨h, e⟩ | ⟨h, h', e⟩ | ⟨h, _, e⟩ | ⟨h, e⟩ <;> rw [e]
  · exact iff_of_false nofun (by omega)
  · exact iff_of_true rfl ⟨h, h'⟩
  · exact iff_of_false nofun (by omega)
  · exact iff_of_false nofun (by omega)

/-- Two RAM addresses are aliases exactly when they agree by the mirror period. -/
theorem decodeAddress_ram_eq_iff {a₁ a₂ : Address} (h₁ : a₁.toNat ≤ 0x1FFF) (h₂ : a₂.toNat ≤ 0x1FFF) :
    decodeAddress a₁ = decodeAddress a₂ ↔ a₁.toNat % 0x0800 = a₂.toNat % 0x0800 := by
  rw [decodeAddress_ram h₁, decodeAddress_ram h₂, target_ofNat_inj (by omega) (by omega)]

/-- Two PPU addresses are aliases exactly when they agree by the mirror period. -/
theorem decodeAddress_ppu_eq_iff {a₁ a₂ : Address} (h₁ : 0x2000 ≤ a₁.toNat) (h₁' : a₁.toNat ≤ 0x3FFF)
    (h₂ : 0x2000 ≤ a₂.toNat) (h₂' : a₂.toNat ≤ 0x3FFF) :
    decodeAddress a₁ = decodeAddress a₂ ↔ a₁.toNat % 0x0008 = a₂.toNat % 0x0008 := by
  rw [decodeAddress_ppu h₁ h₁', decodeAddress_ppu h₂ h₂', target_ofNat_inj (by omega) (by omega)]

/-- The addresses of a RAM offset are the RAM addresses with that remainder. -/
theorem decodeAddress_eq_ram_iff {a : Address} {o : Nat} (ho : o < 0x0800) :
    decodeAddress a = ⟨.internalRAM, BitVec.ofNat 16 o⟩ ↔ a.toNat ≤ 0x1FFF ∧ a.toNat % 0x0800 = o := by
  constructor
  · intro h
    have ha := (decodeAddress_kind_eq_internalRAM_iff a).1 (congrArg Target.kind h)
    rw [decodeAddress_ram ha, target_ofNat_inj (by omega) (by omega)] at h
    exact ⟨ha, h⟩
  · rintro ⟨ha, rfl⟩
    exact decodeAddress_ram ha

/-- The addresses of a PPU offset are the PPU addresses with that remainder. -/
theorem decodeAddress_eq_ppu_iff {a : Address} {o : Nat} (ho : o < 8) :
    decodeAddress a = ⟨.ppuRegisters, BitVec.ofNat 16 o⟩ ↔
      (0x2000 ≤ a.toNat ∧ a.toNat ≤ 0x3FFF) ∧ a.toNat % 0x0008 = o := by
  constructor
  · intro h
    have ha := (decodeAddress_kind_eq_ppuRegisters_iff a).1 (congrArg Target.kind h)
    rw [decodeAddress_ppu ha.1 ha.2, target_ofNat_inj (by omega) (by omega)] at h
    exact ⟨ha, h⟩
  · rintro ⟨⟨ha, ha'⟩, rfl⟩
    exact decodeAddress_ppu ha ha'

/-- An address from $4000 on is the only address of its offset. -/
theorem eq_of_decodeAddress_eq_of_le {a₁ a₂ : Address} (h : 0x4000 ≤ a₁.toNat) (he : decodeAddress a₁ = decodeAddress a₂) :
    a₁ = a₂ := by
  by_cases h' : a₁.toNat ≤ 0x401F
  · exact eq_of_decodeAddress_eq toNat_of_decodeAddress_apu (congrArg Target.kind (decodeAddress_apu h h')) he
  · exact eq_of_decodeAddress_eq toNat_of_decodeAddress_cartridge
      ((decodeAddress_kind_eq_cartridge_iff a₁).2 (by omega)) he

/-- Settles O13: aliases are the addresses of one offset, which the range and the remainder fix. -/
theorem aliasClasses : Obligations.AliasClasses := by
  refine ⟨fun _ _ => decodeAddress_ram_eq_iff, fun a o ho => ?_, fun _ _ => decodeAddress_ppu_eq_iff, fun a o ho => ?_,
    fun _ _ => eq_of_decodeAddress_eq_of_le, fun _ _ => mt (congrArg Target.kind), ?_⟩
  · rw [decodeAddress_eq_ram_iff ho]
    omega
  · rw [decodeAddress_eq_ppu_iff ho]
    constructor
    · rintro ⟨⟨hlo, hhi⟩, hmod⟩
      exact ⟨(a.toNat - 0x2000) / 8, by omega, by omega⟩
    · rintro ⟨n, hn, ha⟩
      omega
  · decide

/-! ### The region rows -/

/-- The AddressDecoder's answer is put first among the answers. -/
theorem lookUp_eq (k : Kind) (o : Offset) (s : State) :
    lookUp k o s = .next { s with lookups := ⟨k, o⟩ :: s.lookups } := rfl

/-- A Cartridge row answers what `decode` answers for its address. -/
theorem lookUp_offsetCartridge {a : Address} (h : 0x4020 ≤ a.toNat) (s : State) :
    lookUp .cartridge (offsetCartridge a) s = .next { s with lookups := decodeAddress a :: s.lookups } := by
  rw [lookUp_eq, decodeAddress_eq_offsetCartridge h]

/-- A Cartridge row answers the number of its address less $4020. -/
theorem lookUp_offsetCartridge_of_toNat {a : Address} {n : Nat} (hn : 0x4020 ≤ n) (ha : a.toNat = n) (s : State) :
    lookUp .cartridge (offsetCartridge a) s =
      .next { s with lookups := ⟨.cartridge, BitVec.ofNat 16 (n - 0x4020)⟩ :: s.lookups } := by
  rw [lookUp_offsetCartridge (by omega), decodeAddress_cartridge (by omega), ha]

/-- REGION.InternalRAM answers what `decode` answers for its address. -/
theorem exec_regionInternalRAM (low : BitVec 13) (s : State) :
    exec (.regionInternalRAM low) s = .next { s with lookups := decodeAddress (addrInternalRAM low) :: s.lookups } := by
  rw [decodeAddress_eq_offsetInternalRAM (by rw [addrInternalRAM_toNat]; omega)]
  rfl

/-- REGION.PPURegisters answers what `decode` answers for its address. -/
theorem exec_regionPPURegisters (low : BitVec 13) (s : State) :
    exec (.regionPPURegisters low) s = .next { s with lookups := decodeAddress (addrPPURegisters low) :: s.lookups } := by
  have ha := addrPPURegisters_toNat low
  rw [decodeAddress_eq_offsetPPURegisters (by omega) (by omega)]
  rfl

/-- REGION.APUIORegisters answers what `decode` answers for its address. -/
theorem exec_regionAPUIORegisters (low : BitVec 5) (s : State) :
    exec (.regionAPUIORegisters low) s =
      .next { s with lookups := decodeAddress (addrAPUIORegisters low) :: s.lookups } := by
  have ha := addrAPUIORegisters_toNat low
  rw [decodeAddress_eq_offsetAPUIORegisters (by omega) (by omega)]
  rfl

/-- Settles O14: each row answers `decode` of its address, whose remainder is that of the free bits. -/
theorem maskedRegionRowsComplete : Obligations.MaskedRegionRowsComplete := by
  intro s
  refine ⟨fun low => ?_, fun low => ?_, fun low => ?_⟩
  · have ha := addrInternalRAM_toNat low
    rw [exec_regionInternalRAM, decodeAddress_ram (by omega), ha, Nat.zero_add]
  · have ha := addrPPURegisters_toNat low
    have hmod : (addrPPURegisters low).toNat % 0x0008 = low.toNat % 0x0008 := by omega
    rw [exec_regionPPURegisters, decodeAddress_ppu (by omega) (by omega), hmod]
  · have ha := addrAPUIORegisters_toNat low
    rw [exec_regionAPUIORegisters, decodeAddress_apu (by omega) (by omega), ha, Nat.add_sub_cancel_left]

/-- Settles O15: each row subtracts $4020 from its address, which is not below it. -/
theorem cartridgeRegionRowsComplete : Obligations.CartridgeRegionRowsComplete := fun s =>
  ⟨fun low => lookUp_offsetCartridge_of_toNat (by omega) (addrCartridge4020_toNat low) s,
    fun low => lookUp_offsetCartridge_of_toNat (by omega) (addrCartridge4040_toNat low) s,
    fun low => lookUp_offsetCartridge_of_toNat (by omega) (addrCartridge4080_toNat low) s,
    fun low => lookUp_offsetCartridge_of_toNat (by omega) (addrCartridge4100_toNat low) s,
    fun low => lookUp_offsetCartridge_of_toNat (by omega) (addrCartridge4200_toNat low) s,
    fun low => lookUp_offsetCartridge_of_toNat (by omega) (addrCartridge4400_toNat low) s,
    fun low => lookUp_offsetCartridge_of_toNat (by omega) (addrCartridge4800_toNat low) s,
    fun low => lookUp_offsetCartridge_of_toNat (by omega) (addrCartridge5000_toNat low) s,
    fun low => lookUp_offsetCartridge_of_toNat (by omega) (addrCartridge6000_toNat low) s,
    fun low => lookUp_offsetCartridge_of_toNat (by omega) (addrCartridge8000_toNat low) s⟩

/-- Settles O16: the row an address lies in answers `decode` of it. -/
theorem regionRowsAreTheDecoder : Obligations.RegionRowsAreTheDecoder := by
  intro a s
  rw [decodePortWord]
  rcases decodeRegion_cases a with ⟨low, rfl, e⟩ | ⟨low, rfl, e⟩ | ⟨low, rfl, e⟩ | ⟨low, rfl, e⟩ | ⟨low, rfl, e⟩ |
    ⟨low, rfl, e⟩ | ⟨low, rfl, e⟩ | ⟨low, rfl, e⟩ | ⟨low, rfl, e⟩ | ⟨low, rfl, e⟩ | ⟨low, rfl, e⟩ | ⟨low, rfl, e⟩ |
    ⟨low, rfl, e⟩ <;> rw [e]
  · exact exec_regionInternalRAM low s
  · exact exec_regionPPURegisters low s
  · exact exec_regionAPUIORegisters low s
  · exact lookUp_offsetCartridge (by rw [addrCartridge4020_toNat]; omega) s
  · exact lookUp_offsetCartridge (by rw [addrCartridge4040_toNat]; omega) s
  · exact lookUp_offsetCartridge (by rw [addrCartridge4080_toNat]; omega) s
  · exact lookUp_offsetCartridge (by rw [addrCartridge4100_toNat]; omega) s
  · exact lookUp_offsetCartridge (by rw [addrCartridge4200_toNat]; omega) s
  · exact lookUp_offsetCartridge (by rw [addrCartridge4400_toNat]; omega) s
  · exact lookUp_offsetCartridge (by rw [addrCartridge4800_toNat]; omega) s
  · exact lookUp_offsetCartridge (by rw [addrCartridge5000_toNat]; omega) s
  · exact lookUp_offsetCartridge (by rw [addrCartridge6000_toNat]; omega) s
  · exact lookUp_offsetCartridge (by rw [addrCartridge8000_toNat]; omega) s

end Sys2Proof.Machine
end

section
/-! SUPPORT. What an instruction that answers a next state did, as one inductive: the latch's answer, a fault entry, an
exchange, a bind, or an answer of the AddressDecoder; and the frame of each part of the state, read off it (spec/10_state.md
section 9). -/

namespace Sys2Proof.Machine

/-! ### What READ and WRITE leave of the state they finish -/

/-- The end of a READ makes no exchange of its own. -/
@[simp] theorem finishRead_portLog (t : Target) (p : State × ReadResult) : (finishRead t p).portLog = p.1.portLog := by
  rcases finishRead_cases t p with ⟨_, -, e⟩ | ⟨_, -, e⟩ <;> rw [e] <;> rfl

/-- The end of a WRITE makes no exchange of its own. -/
@[simp] theorem finishWrite_portLog (t : Target) (p : State × WriteResult) : (finishWrite t p).portLog = p.1.portLog := by
  rcases finishWrite_cases t p with ⟨-, e⟩ | ⟨_, -, e⟩ <;> rw [e] <;> rfl

/-- The end of a WRITE touches no device of its own. -/
@[simp] theorem finishWrite_devices (t : Target) (p : State × WriteResult) : (finishWrite t p).devices = p.1.devices := by
  rcases finishWrite_cases t p with ⟨-, e⟩ | ⟨_, -, e⟩ <;> rw [e] <;> rfl

/-! ### Accesses and exchanges -/

/-- The instruction is a READ or a WRITE of the address. -/
def accesses (i : Instr) (a : Address) : Prop := i = .read a ∨ ∃ v, i = .write a v

/-- What the exchange of a READ or a WRITE makes of the device. -/
def deviceAfter (i : Instr) (d : DevId) (draw : Nat) (o : Offset) (dev : Device) : Device :=
  match i with
  | .read _ => (deviceRead d draw o dev).1
  | .write _ v => (deviceWrite d draw o v dev).1
  | _ => dev

/-- The state after an exchange that leaves device `dev` in the pool: `n` free values drawn, `x` on record. -/
def State.exchange (s : State) (d : DevId) (dev : Device) (n : Nat) (x : PortExchange) : State :=
  ((s.putDevice d dev).advanceDraws n).logExchange x

section
variable (s : State) (d : DevId) (dev : Device) (n : Nat) (x : PortExchange)

@[simp] theorem State.exchange_table : (s.exchange d dev n x).table = s.table := rfl
@[simp] theorem State.exchange_fault : (s.exchange d dev n x).fault = s.fault := rfl
@[simp] theorem State.exchange_devices : (s.exchange d dev n x).devices = s.devices.set d.toNat dev := rfl
@[simp] theorem State.exchange_inputs : (s.exchange d dev n x).inputs = s.inputs := rfl
@[simp] theorem State.exchange_responses : (s.exchange d dev n x).responses = s.responses := rfl
@[simp] theorem State.exchange_lookups : (s.exchange d dev n x).lookups = s.lookups := rfl
@[simp] theorem State.exchange_portLog : (s.exchange d dev n x).portLog = x :: s.portLog := rfl
@[simp] theorem State.exchange_endedRuns : (s.exchange d dev n x).endedRuns = s.endedRuns := rfl

end

/-- Everything an instruction that answers a next state can have done, by what decided it. -/
inductive Effect (i : Instr) (s : State) : State → Prop
  /-- The latch answered. -/
  | latched (r : FaultRecord) (hf : s.fault = some r) : Effect i s (s.respond (.fault r))
  /-- The slot of the decoded kind was empty. -/
  | missed (a : Address) (ha : accesses i a) (hf : s.fault = none) (hk : s.table.get (decodeAddress a).kind = none) :
      Effect i s (takeFault (.configurationError (decodeAddress a).kind (decodeAddress a).offset) s)
  /-- The device answered the access. -/
  | served (a : Address) (ha : accesses i a) (hf : s.fault = none) (d : DevId) (dev : Device)
      (hk : s.table.get (decodeAddress a).kind = some d) (hd : s.device d = some dev) (n : Nat) (x : PortExchange)
      (r : Response) :
      Effect i s ((s.exchange d (deviceAfter i d s.draws (decodeAddress a).offset dev) n x).respond r)
  /-- The device reported a fault. -/
  | failed (a : Address) (ha : accesses i a) (hf : s.fault = none) (d : DevId) (dev : Device)
      (hk : s.table.get (decodeAddress a).kind = some d) (hd : s.device d = some dev) (n : Nat) (x : PortExchange)
      (f : FaultInfo) :
      Effect i s (takeFault (.deviceFault (decodeAddress a).kind (decodeAddress a).offset f)
        (s.exchange d (deviceAfter i d s.draws (decodeAddress a).offset dev) n x))
  /-- INSTALL bound a device of the pool. -/
  | bound (k : Kind) (d : DevId) (hi : i = .install k d) (hf : s.fault = none) (hd : d.toNat < s.ndev) :
      Effect i s ((s.bind k d).respond (.installed k))
  /-- DECODE answered. -/
  | decoded (a : Address) (hi : i = .decode a) :
      Effect i s (s.respond (.decoded (decodeAddress a).kind (decodeAddress a).offset))
  /-- A region row answered. -/
  | lookedUp (t : Target) (hi : ∃ x, encode i = .address x) : Effect i s (s.emitLookup t)

/-- An instruction that answers a next state had one of these effects. -/
theorem exec_effect {i : Instr} {s t : State} (h : exec i s = .next t) : Effect i s t := by
  rcases exec_cases h with ⟨a, rfl, h⟩ | ⟨a, v, rfl, h⟩ | ⟨k, d, rfl, h⟩ | ⟨a, rfl, rfl⟩ | ⟨hr, hw, hin, hde, target, rfl, -⟩
  · rcases execRead_cases h with ⟨r, hf, rfl⟩ | ⟨hf, hk, rfl⟩ | ⟨d, dev, hf, hk, hd, rfl⟩
    · exact .latched r hf
    · exact .missed a (.inl rfl) hf hk
    · rcases finishRead_cases (decodeAddress a) (devRead (decodeAddress a).kind d dev (decodeAddress a).offset s)
        with ⟨b, -, e⟩ | ⟨f, -, e⟩ <;> rw [e]
      · exact .served a (.inl rfl) hf d dev hk hd _ _ _
      · exact .failed a (.inl rfl) hf d dev hk hd _ _ f
  · rcases execWrite_cases h with ⟨r, hf, rfl⟩ | ⟨hf, hk, rfl⟩ | ⟨d, dev, hf, hk, hd, rfl⟩
    · exact .latched r hf
    · exact .missed a (.inr ⟨v, rfl⟩) hf hk
    · rcases finishWrite_cases (decodeAddress a) (devWrite (decodeAddress a).kind d dev (decodeAddress a).offset v s)
        with ⟨-, e⟩ | ⟨f, -, e⟩ <;> rw [e]
      · exact .served a (.inr ⟨v, rfl⟩) hf d dev hk hd _ _ _
      · exact .failed a (.inr ⟨v, rfl⟩) hf d dev hk hd _ _ f
  · obtain ⟨hd, ⟨r, hf, rfl⟩ | ⟨hf, rfl⟩⟩ := execInstall_cases h
    · exact .latched r hf
    · exact .bound k d rfl hf hd
  · exact .decoded a rfl
  · refine .lookedUp target (not_forall_not.1 fun hno => ?_)
    rcases request_cases hno with ⟨a, rfl⟩ | ⟨a, v, rfl⟩ | ⟨k, d, rfl⟩ | ⟨a, rfl⟩
    · exact hr a rfl
    · exact hw a v rfl
    · exact hin k d rfl
    · exact hde a rfl

/-! ### Devices -/

/-- The exchange of an access keeps the sort of the device. -/
theorem deviceAfter_sort (i : Instr) (d : DevId) (n : Nat) (o : Offset) (dev : Device) :
    (deviceAfter i d n o dev).sort = dev.sort := by
  cases i with
  | read a => exact deviceRead_sort d n o dev
  | write a v => exact deviceWrite_sort d n o v dev
  | _ => rfl

/-- The exchange of an access keeps a device well formed. -/
theorem deviceAfter_wf (i : Instr) (d : DevId) (n : Nat) (o : Offset) {dev : Device} (h : dev.wf) :
    (deviceAfter i d n o dev).wf := by
  cases i with
  | read a => exact deviceRead_wf d n o h
  | write a v => exact deviceWrite_wf d n o v h
  | _ => exact h

section
variable {s : State} {d : DevId} {old : Device} (hd : s.device d = some old) (dev : Device) (n : Nat) (x : PortExchange)
include hd

/-- An exchange leaves in the pool the device it is given. -/
theorem State.device_exchange_same : (s.exchange d dev n x).device d = some dev :=
  State.device_putDevice_same hd dev

/-- An exchange with a device of the pool that keeps its sort keeps the pool. -/
theorem State.pool_exchange (hs : dev.sort = old.sort) : (s.exchange d dev n x).pool = s.pool :=
  State.pool_putDevice hd hs

end

/-- An exchange leaves every other device alone. -/
theorem State.device_exchange_other {s : State} {d d' : DevId} (h : d' ≠ d) (dev : Device) (n : Nat) (x : PortExchange) :
    (s.exchange d dev n x).device d' = s.device d' :=
  State.device_putDevice_other h dev

/-! ### Stored bytes -/

/-- What byte `o` of device `d` reads as, when the device is a RAM that has it. -/
def deviceByte (d : DevId) (o : Offset) : Device → Option Byte
  | .ram size mem => if o.toNat < size then some (ramByte d mem o) else none
  | .trace _ _ => none
  | .external _ => none

/-- A stored byte is a byte of a device of the pool. -/
theorem storedByte_eq_bind (d : DevId) (o : Offset) (s : State) : storedByte d o s = (s.device d).bind (deviceByte d o) := by
  unfold storedByte
  cases s.device d with
  | none => rfl
  | some dev => cases dev <;> rfl

/-- The stored byte of a device that is there. -/
theorem storedByte_of_device {s : State} {d : DevId} {dev : Device} (h : s.device d = some dev) (o : Offset) :
    storedByte d o s = deviceByte d o dev := by
  rw [storedByte_eq_bind, h, Option.bind_some]

/-- A device that is as it was has its bytes as they were. -/
theorem storedByte_congr {s t : State} {d : DevId} (h : t.device d = s.device d) (o : Offset) :
    storedByte d o t = storedByte d o s := by
  rw [storedByte_eq_bind, storedByte_eq_bind, h]

/-- A read exchange keeps every byte. -/
theorem deviceByte_deviceRead (d : DevId) (n : Nat) (o o' : Offset) (dev : Device) :
    deviceByte d o' (deviceRead d n o dev).1 = deviceByte d o' dev := by
  cases dev <;> rfl

/-- A write exchange keeps every byte at another offset. -/
theorem deviceByte_deviceWrite_other {o o' : Offset} (h : o' ≠ o) (d : DevId) (n : Nat) (v : Byte) (dev : Device) :
    deviceByte d o' (deviceWrite d n o v dev).1 = deviceByte d o' dev := by
  cases dev with
  | ram size mem =>
    rw [deviceWrite]
    split
    · simp only [deviceByte, ramByte_write_other d mem h]
    · rfl
  | trace c calls => rfl
  | external st => rfl

/-- A write exchange with a RAM that has the byte stores the value. -/
theorem deviceByte_deviceWrite_same {d : DevId} {o : Offset} {dev : Device} (h : deviceByte d o dev ≠ none) (n : Nat)
    (v : Byte) : deviceByte d o (deviceWrite d n o v dev).1 = some v := by
  cases dev with
  | ram size mem =>
    by_cases ho : o.toNat < size
    · simp only [deviceWrite_ram ho, deviceByte, if_pos ho, ramByte_write_same]
    · exact absurd (if_neg ho) h
  | trace c calls => exact absurd rfl h
  | external st => exact absurd rfl h

/-- The exchange of an access keeps every byte but the one a WRITE addresses. -/
theorem deviceByte_deviceAfter {i : Instr} {a : Address} {o o' : Offset} (ha : accesses i a)
    (h : ∀ v, i = .write a v → o' ≠ o) (d : DevId) (n : Nat) (dev : Device) :
    deviceByte d o' (deviceAfter i d n o dev) = deviceByte d o' dev := by
  rcases ha with rfl | ⟨v, rfl⟩
  · exact deviceByte_deviceRead d n o o' dev
  · exact deviceByte_deviceWrite_other (h v rfl) d n v dev

/-- An exchange keeps every byte that the exchanged device keeps. -/
theorem storedByte_exchange {s : State} {d d' : DevId} {old dev : Device} {o : Offset} (hd : s.device d = some old)
    (h : d' = d → deviceByte d o dev = deviceByte d o old) (n : Nat) (x : PortExchange) :
    storedByte d' o (s.exchange d dev n x) = storedByte d' o s := by
  by_cases hdd : d' = d
  · subst hdd
    rw [storedByte_of_device (State.device_exchange_same hd dev n x), storedByte_of_device hd, h rfl]
  · exact storedByte_congr (State.device_exchange_other hdd dev n x) o

/-! ### Frames -/

section
variable {i : Instr} {s t : State} (h : exec i s = .next t)
include h

/-- No instruction touches the inputs still to come. -/
theorem exec_inputs : t.inputs = s.inputs := by
  cases exec_effect h <;> rfl

/-- The table is as it was, or it is a bind of INSTALL while not faulted. -/
theorem exec_table : t.table = s.table ∨
    s.fault = none ∧ ∃ k d, i = .install k d ∧ d.toNat < s.ndev ∧ t.table = s.table.bind k d := by
  cases exec_effect h with
  | bound k d hi hf hd => exact .inr ⟨hf, k, d, hi, hd, rfl⟩
  | _ => exact .inl rfl

/-- The latch is as it was, or a READ or WRITE has set it while not faulted. -/
theorem exec_fault : t.fault = s.fault ∨ s.fault = none ∧ ∃ a, accesses i a := by
  cases exec_effect h with
  | missed a ha hf => exact .inr ⟨hf, a, ha⟩
  | failed a ha hf => exact .inr ⟨hf, a, ha⟩
  | _ => exact .inl rfl

/-- A device is as it was, or it is the one in the decoded slot of a READ or WRITE while not faulted. -/
theorem exec_device (d : DevId) : t.device d = s.device d ∨
    s.fault = none ∧ ∃ a, accesses i a ∧ s.table.get (decodeAddress a).kind = some d := by
  by_cases hd : ∃ a, s.fault = none ∧ accesses i a ∧ s.table.get (decodeAddress a).kind = some d
  · obtain ⟨a, hf, ha, hk⟩ := hd
    exact .inr ⟨hf, a, ha, hk⟩
  · left
    have hne : ∀ {a d'}, accesses i a → s.fault = none → s.table.get (decodeAddress a).kind = some d' → d ≠ d' :=
      fun ha hf hk e => hd ⟨_, hf, ha, e ▸ hk⟩
    cases exec_effect h with
    | served a ha hf d' dev hk hd' n x => exact State.device_exchange_other (hne ha hf hk) _ n x
    | failed a ha hf d' dev hk hd' n x => exact State.device_exchange_other (hne ha hf hk) _ n x
    | _ => rfl

/-- No instruction changes the pool. -/
theorem exec_pool : t.pool = s.pool := by
  cases exec_effect h with
  | served a ha hf d dev hk hd n x => exact State.pool_exchange hd _ n x (deviceAfter_sort i d s.draws _ dev)
  | failed a ha hf d dev hk hd n x => exact State.pool_exchange hd _ n x (deviceAfter_sort i d s.draws _ dev)
  | _ => rfl

/-- No instruction changes the number of devices. -/
theorem exec_ndev : t.ndev = s.ndev := by
  have hpool := congrArg List.length (exec_pool h)
  rwa [State.pool, State.pool, List.length_map, List.length_map] at hpool

/-- Every stored byte is kept, but the one a WRITE addresses. -/
theorem exec_storedByte {d : DevId} {o : Offset}
    (hno : ∀ a v, i = .write a v → s.table.get (decodeAddress a).kind = some d → o ≠ (decodeAddress a).offset) :
    storedByte d o t = storedByte d o s := by
  have hbyte : ∀ {a d'} (dev : Device), accesses i a → s.table.get (decodeAddress a).kind = some d' → d = d' →
      deviceByte d' o (deviceAfter i d' s.draws (decodeAddress a).offset dev) = deviceByte d' o dev := by
    rintro a d' dev ha hk rfl
    exact deviceByte_deviceAfter ha (fun v hi => hno a v hi hk) d s.draws dev
  cases exec_effect h with
  | served a ha hf d' dev hk hd n x => exact storedByte_exchange hd (hbyte dev ha hk) n x
  | failed a ha hf d' dev hk hd n x => exact storedByte_exchange hd (hbyte dev ha hk) n x
  | _ => rfl

/-- No instruction but a READ or WRITE makes an exchange. -/
theorem exec_portLog_of_not_access (hno : ∀ a, ¬ accesses i a) : t.portLog = s.portLog := by
  cases exec_effect h with
  | served a ha => exact absurd ha (hno a)
  | failed a ha => exact absurd ha (hno a)
  | _ => rfl

end

/-- Settles O29: the table changes by `bound`, the latch by `missed` and `failed`, a device by `served` and `failed`. -/
theorem whoWritesWhat : Obligations.WhoWritesWhat := by
  intro i s t h
  refine ⟨fun hne => ?_, fun hne => ?_, fun d hne => (exec_device h d).resolve_left hne, exec_pool h, exec_inputs h,
    exec_endedRuns h⟩
  · obtain ⟨hf, k, d, hi, -, htable⟩ := (exec_table h).resolve_left hne
    exact ⟨hf, k, d, hi, htable⟩
  · obtain ⟨hf, a, hread | ⟨v, hwrite⟩⟩ := (exec_fault h).resolve_left hne
    · exact ⟨hf, .inl ⟨a, hread⟩⟩
    · exact ⟨hf, .inr ⟨a, v, hwrite⟩⟩

/-- Settles O30: only a WRITE addresses a byte to change it. -/
theorem nonStoringInstructionsKeepEveryByte : Obligations.NonStoringInstructionsKeepEveryByte :=
  fun _ _ _ hno h _ _ => exec_storedByte h fun a v hi => absurd hi (hno a v)

/-- A WRITE that is performed on a RAM that has the byte stores the value. -/
theorem storedByte_of_exec_write {a : Address} {v : Byte} {s t : State} {d : DevId} (h : exec (.write a v) s = .next t)
    (hf : s.fault = none) (hk : s.table.get (decodeAddress a).kind = some d)
    (hb : storedByte d (decodeAddress a).offset s ≠ none) : storedByte d (decodeAddress a).offset t = some v := by
  rw [storedByte_eq_bind] at hb
  cases hd : s.device d with
  | none => exact absurd (by rw [hd]; rfl) hb
  | some dev =>
    rw [hd, Option.bind_some] at hb
    rw [exec_write_exchange rfl hf hk hd rfl] at h
    cases h
    rw [storedByte_congr (State.device_congr (finishWrite_devices _ _) d)]
    exact (storedByte_of_device (State.device_exchange_same hd _ _ _) _).trans (deviceByte_deviceWrite_same hb _ v)

/-- Settles O31: the one byte that a WRITE addresses is the value, and it addresses no other. -/
theorem writeChangesOneByte : Obligations.WriteChangesOneByte := by
  intro a v s t h
  refine ⟨fun d o hno => exec_storedByte h ?_, fun d hf hk hb => storedByte_of_exec_write h hf hk hb⟩
  intro a' v' hi hk ho
  cases hi
  exact hno ⟨hk, ho⟩

/-- Settles O39: the latch of an unfaulted state is set by `missed`, on an empty slot, and by `failed`, on a bound one. -/
theorem onlyReadAndWriteRaise : Obligations.OnlyReadAndWriteRaise := by
  intro i s t r hf h hr
  cases exec_effect h with
  | missed a ha _ hk =>
    cases hr
    exact ⟨a, ha, rfl, rfl, rfl, iff_of_true rfl hk, fun _ => ⟨rfl, rfl⟩⟩
  | failed a ha _ d dev hk =>
    cases hr
    have hbound : s.table.get (decodeAddress a).kind ≠ none := by rw [hk]; nofun
    exact ⟨a, ha, rfl, rfl, rfl, iff_of_false nofun hbound, fun hempty => absurd hempty hbound⟩
  | _ => exact absurd (hf.symm.trans hr) nofun

/-! ### Exchanges on the ports -/

/-- The exchange word of a read, as a number. -/
theorem dreqRead_toNat (o : Offset) : (dreqRead o).toNat = 2 ^ 25 + 2 ^ 24 + o.toNat * 2 ^ 8 := by
  simp only [dreqRead, toNat_append_add, BitVec.toNat_ofNat]
  omega

/-- The exchange word of a write, as a number. -/
theorem dreqWrite_toNat (o : Offset) (v : Byte) : (dreqWrite o v).toNat = 2 ^ 25 + o.toNat * 2 ^ 8 + v.toNat := by
  simp only [dreqWrite, toNat_append_add, BitVec.toNat_ofNat]
  omega

/-- `sel` is 1 on the exchange's port alone. -/
theorem PortExchange.sel_iff (x : PortExchange) (k : Kind) : x.sel k = true ↔ k = x.port := beq_iff_eq

/-- The fields of a read's exchange word. -/
theorem dreqRead_fields (o : Offset) :
    (dreqRead o).extractLsb' 24 2 = 0b11#2 ∧ (dreqRead o).extractLsb' 8 16 = o := by
  have ho := o.isLt
  refine ⟨?_, ?_⟩ <;> apply BitVec.eq_of_toNat_eq <;> rw [toNat_field, dreqRead_toNat]
  · rw [BitVec.toNat_ofNat]
    omega
  · omega

/-- The fields of a write's exchange word. -/
theorem dreqWrite_fields (o : Offset) (v : Byte) :
    (dreqWrite o v).extractLsb' 24 2 = 0b10#2 ∧ (dreqWrite o v).extractLsb' 8 16 = o ∧
      (dreqWrite o v).extractLsb' 0 8 = v := by
  have ho := o.isLt
  have hv := v.isLt
  refine ⟨?_, ?_, ?_⟩ <;> apply BitVec.eq_of_toNat_eq <;> rw [toNat_field, dreqWrite_toNat]
  · rw [BitVec.toNat_ofNat]
    omega
  · omega
  · omega

/-- Settles O36: the words are their fields as numbers, and an answer's top bit is set exactly from 2 ^ 8 on. -/
theorem exchangeWords : Obligations.ExchangeWords := by
  have hbyte : ∀ w : BitVec 9, drspByte w = BitVec.ofNat 8 w.toNat := fun w =>
    BitVec.eq_of_toNat_eq ((drspByte_toNat w).trans (BitVec.toNat_ofNat ..).symm)
  refine ⟨dreqRead_toNat, dreqWrite_toNat, PortExchange.sel_iff, fun w h => ?_, fun w h => ?_⟩ <;>
    rw [readResultOf, writeResultOf, hbyte]
  · have hok := (drspFault_eq_zero_iff w).2 h
    exact ⟨if_pos hok, if_pos hok⟩
  · have hfault := mt (drspFault_eq_zero_iff w).1 h.not_gt
    exact ⟨if_neg hfault, if_neg hfault⟩

/-- A READ makes one exchange when it is performed on a bound slot, and none when it is not. -/
theorem exec_read_portLog {a : Address} {s t : State} (h : exec (.read a) s = .next t) :
    (∀ d, s.fault = none → s.table.get (decodeAddress a).kind = some d →
      ∃ r, t.portLog = .read (decodeAddress a).kind d (decodeAddress a).offset r :: s.portLog) ∧
    (s.fault ≠ none ∨ s.table.get (decodeAddress a).kind = none → t.portLog = s.portLog) := by
  rcases execRead_cases h with ⟨r, hf, rfl⟩ | ⟨hf, hk, rfl⟩ | ⟨d, dev, hf, hk, hd, rfl⟩
  · exact ⟨fun d hf' => absurd (hf'.symm.trans hf) nofun, fun _ => rfl⟩
  · exact ⟨fun d _ hk' => absurd (hk.symm.trans hk') nofun, fun _ => rfl⟩
  · refine ⟨fun d' _ hk' => ?_, ?_⟩
    · cases hk.symm.trans hk'
      exact ⟨_, finishRead_portLog _ _⟩
    · rintro (hf' | hk')
      · exact absurd hf hf'
      · exact absurd (hk'.symm.trans hk) nofun

/-- A WRITE makes one exchange when it is performed on a bound slot, and none when it is not. -/
theorem exec_write_portLog {a : Address} {v : Byte} {s t : State} (h : exec (.write a v) s = .next t) :
    (∀ d, s.fault = none → s.table.get (decodeAddress a).kind = some d →
      ∃ r, t.portLog = .write (decodeAddress a).kind d (decodeAddress a).offset v r :: s.portLog) ∧
    (s.fault ≠ none ∨ s.table.get (decodeAddress a).kind = none → t.portLog = s.portLog) := by
  rcases execWrite_cases h with ⟨r, hf, rfl⟩ | ⟨hf, hk, rfl⟩ | ⟨d, dev, hf, hk, hd, rfl⟩
  · exact ⟨fun d hf' => absurd (hf'.symm.trans hf) nofun, fun _ => rfl⟩
  · exact ⟨fun d _ hk' => absurd (hk.symm.trans hk') nofun, fun _ => rfl⟩
  · refine ⟨fun d' _ hk' => ?_, ?_⟩
    · cases hk.symm.trans hk'
      exact ⟨_, finishWrite_portLog _ _⟩
    · rintro (hf' | hk')
      · exact absurd hf hf'
      · exact absurd (hk'.symm.trans hk) nofun

/-- Settles O27: the exchange is the one of READ or of WRITE, and no other instruction has one. -/
theorem oneExchangeOnTheDecodedPort : Obligations.OneExchangeOnTheDecodedPort := by
  refine ⟨fun _ _ _ => exec_read_portLog, fun _ _ _ _ => exec_write_portLog, fun k d o v r w k' => ?_,
    fun i s t h hread hwrite => exec_portLog_of_not_access h ?_⟩
  · obtain ⟨hread, hreadOffset⟩ := dreqRead_fields o
    obtain ⟨hwrite, hwriteOffset, hvalue⟩ := dreqWrite_fields o v
    exact ⟨PortExchange.sel_iff _ k', hread, hreadOffset, PortExchange.sel_iff _ k', hwrite, hwriteOffset, hvalue⟩
  · rintro a (hi | ⟨v, hi⟩)
    · exact hread a hi
    · exact hwrite a v hi

end Sys2Proof.Machine
end

section
/-! SUPPORT. READ and WRITE against each other: through aliases, through a device in two slots, after a re-installation, with
other bindings in the other slots and with other records (spec/41_access.md section 3; spec/42_install.md). -/

namespace Sys2Proof.Machine

/-! ### The fixtures -/

/-- A RAM reports $01 for a read past its end. -/
theorem deviceRead_ram_past {size : Nat} {o : Offset} (h : size ≤ o.toNat) (d : DevId) (n : Nat) (mem : Memory) :
    deviceRead d n o (.ram size mem) = (.ram size mem, .fault 0x01#8) := by
  rw [deviceRead, if_neg h.not_gt, ramPastEnd]

/-- A RAM reports $01 for a write past its end and stores nothing. -/
theorem deviceWrite_ram_past {size : Nat} {o : Offset} (h : size ≤ o.toNat) (d : DevId) (n : Nat) (v : Byte) (mem : Memory) :
    deviceWrite d n o v (.ram size mem) = (.ram size mem, .fault 0x01#8) := by
  rw [deviceWrite, if_neg h.not_gt, ramPastEnd]

/-- Putting back the device that is there changes no device. -/
theorem State.devices_putDevice_self {s : State} {d : DevId} {dev : Device} (h : s.device d = some dev) :
    (s.putDevice d dev).devices = s.devices := by
  rw [State.putDevice_self h]

/-- Settles O21: TRACE takes its call and answers its byte, and RAM(n) past its end is left as it was. -/
theorem testDevicesAnswerAsDescribed : Obligations.TestDevicesAnswerAsDescribed := by
  refine ⟨fun a v s d c calls hf hk hd => ⟨?_, ?_⟩, fun a v s d size mem hf hk hd ho i hi => ?_⟩
  · exact ⟨_, exec_read_exchange rfl hf hk hd rfl, State.device_putDevice_same hd _, hf, rfl⟩
  · exact ⟨_, exec_write_exchange rfl hf hk hd rfl, State.device_putDevice_same hd _, hf, rfl⟩
  · rcases hi with rfl | rfl
    · exact ⟨_, exec_read_exchange rfl hf hk hd (deviceRead_ram_past ho d _ mem), State.devices_putDevice_self hd,
        rfl, rfl, rfl⟩
    · exact ⟨_, exec_write_exchange rfl hf hk hd (deviceWrite_ram_past ho d _ v mem), State.devices_putDevice_self hd,
        rfl, rfl, rfl⟩

/-! ### One RAM through two addresses -/

/-- A WRITE to a byte of a RAM and a READ of that byte through any address whose slot holds that RAM both complete, and the
READ answers the value. -/
theorem exec_write_then_read_ram {a c : Address} {s : State} {d : DevId} {size : Nat} {mem : Memory} (v : Byte)
    (hf : s.fault = none) (ha : s.table.get (decodeAddress a).kind = some d)
    (hc : s.table.get (decodeAddress c).kind = some d) (hd : s.device d = some (.ram size mem))
    (hoffset : (decodeAddress c).offset = (decodeAddress a).offset) (ho : (decodeAddress a).offset.toNat < size) :
    ∃ t u, exec (.write a v) s = .next t ∧ exec (.read c) t = .next u ∧ u.fault = none ∧
      u.responses = .byte (decodeAddress c).kind (decodeAddress c).offset v ::
        .written (decodeAddress a).kind (decodeAddress a).offset :: s.responses := by
  obtain ⟨t, hwrite, htf, httable, htresponses, hstored⟩ : ∃ t, exec (.write a v) s = .next t ∧ t.fault = none ∧
      t.table = s.table ∧ t.responses = .written (decodeAddress a).kind (decodeAddress a).offset :: s.responses ∧
      t.device d = some (.ram size (Memory.write mem (decodeAddress a).offset.toNat v)) :=
    ⟨_, exec_write_ram hf ha hd ho v, hf, rfl, rfl, State.device_putDevice_same hd _⟩
  have hread := exec_read_ram htf (by rw [httable, hc]) hstored (by rwa [hoffset])
  rw [hoffset, ramByte_write_same] at hread
  exact ⟨t, _, hwrite, hread, htf, by rw [hoffset, ← htresponses]; rfl⟩

/-- Settles O33: two RAM addresses equal by the mirror period decode to the same byte of the reference RAM. -/
theorem ramMirrorShowsTheWrite : Obligations.RamMirrorShowsTheWrite := by
  intro a₁ a₂ v s d mem h₁ h₂ hmod hf hk hd
  have halias := (decodeAddress_ram_eq_iff h₁ h₂).2 hmod
  have hkind := (decodeAddress_kind_eq_internalRAM_iff a₁).2 h₁
  obtain ⟨t, u, hwrite, hread, hfault, hresponses⟩ := exec_write_then_read_ram v hf (hkind ▸ hk)
    (by rw [← halias, hkind, hk]) hd (congrArg Target.offset halias.symm) (decodeAddress_ram_offset_lt h₁)
  rw [← halias, decodeAddress_ram h₁] at hresponses
  exact ⟨t, u, hwrite, hread, hfault, hresponses⟩

/-- Settles O35: the slot of either address holds the one RAM. -/
theorem deviceInTwoSlotsIsShared : Obligations.DeviceInTwoSlotsIsShared := by
  intro a c v s d size mem hf hram hcart hd ha hc hoffset ho
  obtain ⟨t, u, hwrite, hread, -, hresponses⟩ :=
    exec_write_then_read_ram v hf (ha ▸ hram) (hc ▸ hcart) hd hoffset ho
  refine ⟨t, u, hwrite, hread, ?_⟩
  rw [hresponses, hc, List.head?_cons]

/-! ### Aliases -/

/-- READ looks at the address through `decode` alone. -/
theorem execRead_congr {a₁ a₂ : Address} (h : decodeAddress a₁ = decodeAddress a₂) (s : State) :
    execRead a₁ s = execRead a₂ s := by
  simp only [execRead, withDevice, h]

/-- WRITE looks at the address through `decode` alone. -/
theorem execWrite_congr {a₁ a₂ : Address} (h : decodeAddress a₁ = decodeAddress a₂) (v : Byte) (s : State) :
    execWrite a₁ v s = execWrite a₂ v s := by
  simp only [execWrite, withDevice, h]

/-- Settles O32: PPU addresses equal by the mirror period decode alike. -/
theorem ppuAliasesAreTheSameAccess : Obligations.PpuAliasesAreTheSameAccess := by
  intro a₁ a₂ v s h₁ h₁' h₂ h₂' hmod
  have h := (decodeAddress_ppu_eq_iff h₁ h₁' h₂ h₂').2 hmod
  exact ⟨execRead_congr h s, execWrite_congr h v s⟩

/-! ### Re-installation -/

/-- A READ of a kind bound to a device of the pool completes with one exchange with it. -/
theorem exec_read_bound_portLog {a : Address} {s : State} {d : DevId} (hf : s.fault = none)
    (hk : s.table.get (decodeAddress a).kind = some d) (hd : d.toNat < s.ndev) :
    ∃ t r, exec (.read a) s = .next t ∧
      t.portLog = .read (decodeAddress a).kind d (decodeAddress a).offset r :: s.portLog := by
  obtain ⟨dev, hdev⟩ := State.device_of_lt hd
  exact ⟨_, _, exec_read_exchange rfl hf hk hdev rfl, finishRead_portLog _ _⟩

/-- A WRITE to a kind bound to a device of the pool completes with one exchange with it. -/
theorem exec_write_bound_portLog {a : Address} {s : State} {d : DevId} (v : Byte) (hf : s.fault = none)
    (hk : s.table.get (decodeAddress a).kind = some d) (hd : d.toNat < s.ndev) :
    ∃ t r, exec (.write a v) s = .next t ∧
      t.portLog = .write (decodeAddress a).kind d (decodeAddress a).offset v r :: s.portLog := by
  obtain ⟨dev, hdev⟩ := State.device_of_lt hd
  exact ⟨_, _, exec_write_exchange rfl hf hk hdev rfl, finishWrite_portLog _ _⟩

/-- INSTALL of a device of the pool, with no fault latched, is a bind; the latch, the devices and the exchanges stay. -/
theorem exec_install_bind {s : State} {d : DevId} (hf : s.fault = none) (hd : d.toNat < s.ndev) (k : Kind) :
    ∃ t, exec (.install k d) s = .next t ∧ t.fault = none ∧ t.table = s.table.bind k d ∧ t.devices = s.devices ∧
      t.portLog = s.portLog :=
  ⟨_, exec_install_clear hf hd k, hf, rfl, rfl, rfl⟩

/-- Settles O26: the second bind sets the slot that the first had set, and no other. -/
theorem reinstallReplacesTheBinding : Obligations.ReinstallReplacesTheBinding := by
  intro k d d' s hf hd hd'
  obtain ⟨t, ht, hft, httable, htdevices, htlog⟩ := exec_install_bind hf hd k
  have hdt : d'.toNat < t.ndev := by rwa [State.ndev_eq, htdevices]
  obtain ⟨u, hu, hfu, hutable, hudevices, hulog⟩ := exec_install_bind hft hdt k
  have hdu : d'.toNat < u.ndev := by rwa [State.ndev_eq, hudevices]
  have hslot : u.table.get k = some d' := by rw [hutable, DeviceTable.get_bind_same]
  refine ⟨t, u, ht, hu, hslot, fun k' hk' => ?_, hudevices.trans htdevices, ?_⟩
  · rw [hutable, DeviceTable.get_bind_other _ hk', httable, DeviceTable.get_bind_other _ hk']
  · rintro a v rfl
    obtain ⟨p, r, hread, hp⟩ := exec_read_bound_portLog hfu hslot hdu
    obtain ⟨q, w, hwrite, hq⟩ := exec_write_bound_portLog v hfu hslot hdu
    rw [hulog, htlog] at hp hq
    exact ⟨p, q, r, w, hread, hp, hwrite, hq⟩

/-! ### Other bindings -/

/-- The state with another table. -/
def State.withTable (tab : DeviceTable) (s : State) : State := { s with table := tab }

/-- An outcome with its next state changed. -/
def mapNext (g : State → State) : Host.Outcome State Fault Refusal → Host.Outcome State Fault Refusal
  | .next t => .next (g t)
  | .fault f => .fault f
  | .refused r => .refused r

section
variable {tab : DeviceTable} {s : State}

/-- The guard does not look at the table. -/
theorem unlessFaulted_withTable (go : Host.Outcome State Fault Refusal) :
    unlessFaulted (s.withTable tab) (mapNext (State.withTable tab) go) =
      mapNext (State.withTable tab) (unlessFaulted s go) := by
  cases hf : s.fault with
  | none => rw [unlessFaulted_clear (s := s) hf, unlessFaulted_clear (s := s.withTable tab) hf]
  | some r =>
    rw [unlessFaulted_set (s := s) hf, unlessFaulted_set (s := s.withTable tab) hf]
    rfl

/-- The end of a READ does not look at the table. -/
theorem finishRead_withTable (t : Target) (u : State) (r : ReadResult) :
    finishRead t (u.withTable tab, r) = (finishRead t (u, r)).withTable tab := by
  cases r <;> rfl

/-- The end of a WRITE does not look at the table. -/
theorem finishWrite_withTable (t : Target) (u : State) (r : WriteResult) :
    finishWrite t (u.withTable tab, r) = (finishWrite t (u, r)).withTable tab := by
  cases r <;> rfl

variable {a : Address} (htab : tab.get (decodeAddress a).kind = s.table.get (decodeAddress a).kind)
include htab

/-- The common path of READ and WRITE looks at the table in the slot of the decoded kind alone. -/
theorem withDevice_withTable {go go' : Target → DevId → Device → Host.Outcome State Fault Refusal}
    (hgo : ∀ t d dev, go' t d dev = mapNext (State.withTable tab) (go t d dev)) :
    withDevice a (s.withTable tab) go' = mapNext (State.withTable tab) (withDevice a s go) := by
  rcases withDevice_cases a s go with ⟨hk, e⟩ | ⟨d, dev, hk, hd, e⟩ | ⟨d, hk, hd, e⟩ <;> rw [e]
  · exact withDevice_empty (s := s.withTable tab) (htab.trans hk) go'
  · exact (withDevice_bound (s := s.withTable tab) (htab.trans hk) hd go').trans (hgo _ d dev)
  · exact withDevice_dangling (s := s.withTable tab) (htab.trans hk) hd go'

/-- READ does the same with other bindings in the other slots. -/
theorem execRead_withTable : execRead a (s.withTable tab) = mapNext (State.withTable tab) (execRead a s) := by
  unfold execRead
  rw [← unlessFaulted_withTable]
  refine congrArg _ (withDevice_withTable htab fun t d dev => ?_)
  exact congrArg _ (finishRead_withTable t (devRead t.kind d dev t.offset s).1 _)

/-- WRITE does the same with other bindings in the other slots. -/
theorem execWrite_withTable (v : Byte) :
    execWrite a v (s.withTable tab) = mapNext (State.withTable tab) (execWrite a v s) := by
  unfold execWrite
  rw [← unlessFaulted_withTable]
  refine congrArg _ (withDevice_withTable htab fun t d dev => ?_)
  exact congrArg _ (finishWrite_withTable t (devWrite t.kind d dev t.offset v s).1 _)

end

/-- Settles O28: an access reads the slot of its own kind alone, and the change of the others is carried through. -/
theorem otherSlotsAreNotLookedAt : Obligations.OtherSlotsAreNotLookedAt := by
  intro a v s tab htab i hi
  have h : exec i (s.withTable tab) = mapNext (State.withTable tab) (exec i s) := by
    rcases hi with rfl | rfl
    · exact execRead_withTable htab
    · exact execWrite_withTable htab v
  revert h
  cases exec i s <;> exact id

/-! ### Other records -/

/-- The state with other records of responses, answers, exchanges and ended runs. -/
def State.withRecords (rs : List Response) (ls : List Target) (ps : List PortExchange) (es : List (Option FaultRecord))
    (s : State) : State :=
  { s with responses := rs, lookups := ls, portLog := ps, endedRuns := es }

/-- The instruction leads from `s` to `t`, and from `s` with the other records to `t` with the entries it added put before
them. -/
def addsToRecords (i : Instr) (s t : State) (rs : List Response) (ls : List Target) (ps : List PortExchange)
    (es : List (Option FaultRecord)) : Prop :=
  ∃ r l p, t.responses = r ++ s.responses ∧ t.lookups = l ++ s.lookups ∧ t.portLog = p ++ s.portLog ∧
    t.endedRuns = s.endedRuns ∧
    exec i (s.withRecords rs ls ps es) = .next (t.withRecords (r ++ rs) (l ++ ls) (p ++ ps) es)

section
variable {s t : State} {rs : List Response} {ls : List Target} {ps : List PortExchange} {es : List (Option FaultRecord)}

/-- READ adds its response and its exchange. -/
theorem execRead_addsToRecords {a : Address} (h : execRead a s = .next t) : addsToRecords (.read a) s t rs ls ps es := by
  rcases execRead_cases h with ⟨r, hf, rfl⟩ | ⟨hf, hk, rfl⟩ | ⟨d, dev, hf, hk, hd, rfl⟩
  · exact ⟨[_], [], [], rfl, rfl, rfl, rfl, exec_read_faulted (s := s.withRecords rs ls ps es) hf a⟩
  · exact ⟨[_], [], [], rfl, rfl, rfl, rfl, exec_read_empty (s := s.withRecords rs ls ps es) rfl hf hk⟩
  · obtain ⟨dev', res, hdev⟩ : ∃ dev' res, deviceRead d s.draws (decodeAddress a).offset dev = (dev', res) := ⟨_, _, rfl⟩
    have hrun := exec_read_exchange (s := s.withRecords rs ls ps es) rfl hf hk hd hdev
    rw [devRead, hdev]
    cases res with
    | ok b => exact ⟨[_], [], [_], rfl, rfl, rfl, rfl, hrun⟩
    | fault f => exact ⟨[_], [], [_], rfl, rfl, rfl, rfl, hrun⟩

/-- WRITE adds its response and its exchange. -/
theorem execWrite_addsToRecords {a : Address} {v : Byte} (h : execWrite a v s = .next t) :
    addsToRecords (.write a v) s t rs ls ps es := by
  rcases execWrite_cases h with ⟨r, hf, rfl⟩ | ⟨hf, hk, rfl⟩ | ⟨d, dev, hf, hk, hd, rfl⟩
  · exact ⟨[_], [], [], rfl, rfl, rfl, rfl, exec_write_faulted (s := s.withRecords rs ls ps es) hf a v⟩
  · exact ⟨[_], [], [], rfl, rfl, rfl, rfl, exec_write_empty (s := s.withRecords rs ls ps es) rfl hf hk⟩
  · obtain ⟨dev', res, hdev⟩ : ∃ dev' res, deviceWrite d s.draws (decodeAddress a).offset v dev = (dev', res) := ⟨_, _, rfl⟩
    have hrun := exec_write_exchange (s := s.withRecords rs ls ps es) rfl hf hk hd hdev
    rw [devWrite, hdev]
    cases res with
    | ok => exact ⟨[_], [], [_], rfl, rfl, rfl, rfl, hrun⟩
    | fault f => exact ⟨[_], [], [_], rfl, rfl, rfl, rfl, hrun⟩

/-- INSTALL adds its response. -/
theorem execInstall_addsToRecords {k : Kind} {d : DevId} (h : execInstall k d s = .next t) :
    addsToRecords (.install k d) s t rs ls ps es := by
  obtain ⟨hd, ⟨r, hf, rfl⟩ | ⟨hf, rfl⟩⟩ := execInstall_cases h
  · exact ⟨[_], [], [], rfl, rfl, rfl, rfl, exec_install_faulted (s := s.withRecords rs ls ps es) hf k hd⟩
  · exact ⟨[_], [], [], rfl, rfl, rfl, rfl, exec_install_clear (s := s.withRecords rs ls ps es) hf hd k⟩

end

/-- Settles O49: what decides an instruction's effect is the latch, the table, the devices and the draws, which other records
leave as they are. -/
theorem recordsDoNotFeedBack : Obligations.RecordsDoNotFeedBack := by
  intro i s t rs ls ps es h
  rcases exec_cases h with ⟨a, rfl, h⟩ | ⟨a, v, rfl, h⟩ | ⟨k, d, rfl, h⟩ | ⟨a, rfl, rfl⟩ | ⟨-, -, -, -, target, rfl, hrun⟩
  · exact execRead_addsToRecords h
  · exact execWrite_addsToRecords h
  · exact execInstall_addsToRecords h
  · exact ⟨[_], [], [], rfl, rfl, rfl, rfl, rfl⟩
  · exact ⟨[], [target], [], rfl, rfl, rfl, rfl, hrun _⟩

end Sys2Proof.Machine
end

section
/-! SUPPORT. One step: what it keeps of the block, of the devices and of the legality of the state (spec/10_state.md sections
4, 8 and 9; spec/70_reset_and_hazards.md section 1). -/

namespace Sys2Proof.Machine

/-! ### A device's own activity -/

section
variable (d : DevId) (s : State)

@[simp] theorem deviceActivity_table : (deviceActivity d s).table = s.table := by
  rcases deviceActivity_cases d s with e | ⟨_, -, e⟩ <;> rw [e]

@[simp] theorem deviceActivity_fault : (deviceActivity d s).fault = s.fault := by
  rcases deviceActivity_cases d s with e | ⟨_, -, e⟩ <;> rw [e]

@[simp] theorem deviceActivity_inputs : (deviceActivity d s).inputs = s.inputs := by
  rcases deviceActivity_cases d s with e | ⟨_, -, e⟩ <;> rw [e]

@[simp] theorem deviceActivity_responses : (deviceActivity d s).responses = s.responses := by
  rcases deviceActivity_cases d s with e | ⟨_, -, e⟩ <;> rw [e]

@[simp] theorem deviceActivity_portLog : (deviceActivity d s).portLog = s.portLog := by
  rcases deviceActivity_cases d s with e | ⟨_, -, e⟩ <;> rw [e]

@[simp] theorem deviceActivity_endedRuns : (deviceActivity d s).endedRuns = s.endedRuns := by
  rcases deviceActivity_cases d s with e | ⟨_, -, e⟩ <;> rw [e]

@[simp] theorem deviceActivity_ndev : (deviceActivity d s).ndev = s.ndev := by
  rcases deviceActivity_cases d s with e | ⟨_, -, e⟩ <;> rw [e]
  exact List.length_set

/-- Every other device is as it was. -/
theorem deviceActivity_device_other {d' : DevId} (h : d' ≠ d) : (deviceActivity d s).device d' = s.device d' := by
  rcases deviceActivity_cases d s with e | ⟨_, -, e⟩ <;> rw [e]
  exact State.device_putDevice_other h _

/-- An external device stores no byte of a RAM, so its activity changes none. -/
theorem deviceActivity_storedByte (d' : DevId) (o : Offset) : storedByte d' o (deviceActivity d s) = storedByte d' o s := by
  by_cases h : d' = d
  · subst h
    rcases deviceActivity_cases d' s with e | ⟨_, hd, e⟩ <;> rw [e]
    rw [storedByte_of_device hd]
    exact storedByte_of_device (State.device_putDevice_same hd _) o
  · exact storedByte_congr (deviceActivity_device_other d s h) o

end

/-- Settles O46: only the device of the activity can change, and only when it is external. -/
theorem deviceActivityTouchesOnlyItsDevice : Obligations.DeviceActivityTouchesOnlyItsDevice := by
  intro s d rest h
  refine ⟨_, step_activity h, deviceActivity_table _ _, deviceActivity_fault _ _, deviceActivity_responses _ _,
    deviceActivity_portLog _ _, deviceActivity_inputs _ _, deviceActivity_endedRuns _ _,
    fun _ hd => deviceActivity_device_other _ _ hd, deviceActivity_storedByte _ _⟩

/-! ### Words presented -/

/-- A word of the opcode table, at the port of its format, decodes to the instruction the table gives it. -/
theorem decodePortWord_ofBits {nbits w : Nat} {i : Instr} (h : decodeTableWord nbits w = some i) :
    decodePortWord (PortWord.ofBits nbits w) = i := by
  unfold decodeTableWord decodeBits at h
  split at h
  · split at h
    · exact Option.some.inj h
    · cases h
  · cases h

/-- Settles O47: a word first among the inputs is taken from them, decoded and executed. -/
theorem stepRunsTheDecodedInstruction : Obligations.StepRunsTheDecodedInstruction := by
  refine ⟨fun s i w rest h hi => ?_, fun s i nbits w hi => ?_⟩
  · rw [step_word h, hi]
    rfl
  · rw [State.withFetchWord, step_word (presentInput_inputs s _), decodePortWord_ofBits hi]
    rfl

/-- A request word spells no region row. -/
theorem encode_decodeRequest_ne_address (w : BitVec 32) (x : Address) : encode (decodeRequest w) ≠ .address x := by
  rcases op_cases (reqOp w) with h | h | h | h
  · rw [decodeRequest_of_op_read h]
    nofun
  · rw [decodeRequest_of_op_write h]
    nofun
  · rw [decodeRequest_of_op_install h]
    nofun
  · rw [decodeRequest_of_op_decode h]
    nofun

/-- A request operation sends one response and leaves the AddressDecoder's own answers alone. -/
theorem exec_request_responses {i : Instr} {s t : State} (h : exec i s = .next t) (hi : ∀ x, encode i ≠ .address x) :
    (∃ r, t.responses = r :: s.responses) ∧ t.lookups = s.lookups := by
  cases exec_effect h with
  | lookedUp _ hrow =>
    obtain ⟨x, hx⟩ := hrow
    exact absurd hx (hi x)
  | _ => exact ⟨⟨_, rfl⟩, rfl⟩

/-- Settles O48: a request word spells one of the four request operations. -/
theorem oneResponsePerRequest : Obligations.OneResponsePerRequest := by
  intro s t w rest hinputs h
  rw [step_word hinputs] at h
  obtain ⟨hresponse, hlookups⟩ := exec_request_responses h (encode_decodeRequest_ne_address w)
  exact ⟨hresponse, exec_inputs h, hlookups⟩

/-! ### What a step keeps -/

section
variable {s t : State} (h : step s = .next t)
include h

/-- A step takes the first input and no other. -/
theorem step_inputs : t.inputs = s.inputs.tail := by
  rcases step_cases h with ⟨hi, rfl⟩ | ⟨rest, hi, rfl⟩ | ⟨d, rest, hi, rfl⟩ | ⟨w, rest, hi, h⟩ <;> rw [hi]
  · rfl
  · rfl
  · exact deviceActivity_inputs _ _
  · exact exec_inputs h

/-- A step is a reset, which starts a new run, or it stays in the run and keeps a latched fault. -/
theorem step_run : (∃ rest, s.inputs = .reset :: rest ∧ t.endedRuns = s.fault :: s.endedRuns ∧ t.fault = none ∧
      ∀ k, t.table.get k = none) ∨
    ((∀ rest, s.inputs ≠ .reset :: rest) ∧ t.endedRuns = s.endedRuns ∧ ∀ r, s.fault = some r → t.fault = some r) := by
  rcases step_cases h with ⟨hi, rfl⟩ | ⟨rest, hi, rfl⟩ | ⟨d, rest, hi, rfl⟩ | ⟨w, rest, hi, h⟩
  · exact .inr ⟨by rw [hi]; nofun, rfl, fun _ hr => hr⟩
  · exact .inl ⟨rest, hi, rfl, rfl, resetBlock_table_get _⟩
  · refine .inr ⟨by rw [hi]; nofun, deviceActivity_endedRuns _ _, fun r hr => ?_⟩
    rw [deviceActivity_fault, State.setInputs_fault, hr]
  · exact .inr ⟨by rw [hi]; nofun, exec_endedRuns (s := s.setInputs rest) h,
      fun r hr => exec_keeps_fault (s := s.setInputs rest) hr h⟩

variable (hno : ∀ rest, s.inputs ≠ .reset :: rest)
include hno

/-- A step that is no reset does nothing, or a device acts, or a word is executed. -/
theorem step_cases_of_not_reset : t = s ∨
    (∃ d rest, s.inputs = .activity d :: rest ∧ t = deviceActivity d (s.setInputs rest)) ∨
    (∃ w rest, s.inputs = .word w :: rest ∧ exec (decodePortWord w) (s.setInputs rest) = .next t) := by
  rcases step_cases h with ⟨-, e⟩ | ⟨rest, hi, -⟩ | hactivity | hword
  · exact .inl e
  · exact absurd hi (hno rest)
  · exact .inr (.inl hactivity)
  · exact .inr (.inr hword)

/-- A step that is no reset keeps a bound slot bound. -/
theorem step_keeps_bound {k : Kind} (hk : s.table.get k ≠ none) : t.table.get k ≠ none := by
  rcases step_cases_of_not_reset h hno with rfl | ⟨d, rest, -, rfl⟩ | ⟨w, rest, -, h⟩
  · exact hk
  · rwa [deviceActivity_table]
  · rcases exec_table h with e | ⟨-, k', d, -, -, e⟩ <;> rw [e]
    · exact hk
    · rw [DeviceTable.get_bind]
      split
      · nofun
      · exact hk

end

/-- Settles O53: the two cases are those of `step_run`. -/
theorem onlyResetStartsANewRun : Obligations.OnlyResetStartsANewRun := fun _ _ => step_run

/-- Settles O43: a step that is no reset keeps a bound slot bound. -/
theorem onlyResetEmptiesASlot : Obligations.OnlyResetEmptiesASlot := by
  intro s t k h hk hempty
  by_contra hno
  exact step_keeps_bound h (not_exists.1 hno) hk hempty

/-! ### Legality -/

/-- Settles O44: reset's table is the empty one. -/
theorem resetStateIsEmpty : Obligations.ResetStateIsEmpty := ⟨DeviceTable.get_empty, rfl⟩

/-- A pool whose devices are well formed keeps that when one is replaced by a well-formed device. -/
theorem devices_wf_set {devs : List Device} {dev : Device} (hdevs : ∀ x ∈ devs, x.wf) (hdev : dev.wf) (n : Nat) :
    ∀ x ∈ devs.set n dev, x.wf := by
  intro x hx
  rcases List.mem_or_eq_of_mem_set hx with hx | rfl
  · exact hdevs x hx
  · exact hdev

/-- A device of a legal state is well formed. -/
theorem State.Inv.device_wf {s : State} (hs : s.Inv) {d : DevId} {dev : Device} (h : s.device d = some dev) : dev.wf :=
  hs.devices dev (List.mem_of_getElem? h)

/-- The pool of the reset state has 256 devices. -/
theorem State.reset_ndev : State.reset.ndev = 256 := by
  rw [State.ndev_eq, State.reset, resetPool, List.length_cons, List.length_replicate]

/-- Settles O50: the pool of the reset state has 256 well-formed devices, and nothing is bound or latched. -/
theorem resetIsLegal : Obligations.ResetIsLegal where
  ndev_pos := by
    rw [State.reset_ndev]
    omega
  ndev_le := State.reset_ndev.le
  slots k _ hk := absurd ((DeviceTable.get_empty k).symm.trans hk) nofun
  devices := resetPool_wf
  latch := nofun

/-- An instruction leads from a legal state to a legal state. -/
theorem exec_keeps_inv {i : Instr} {s t : State} (hs : s.Inv) (h : exec i s = .next t) : t.Inv where
  ndev_pos := by
    rw [exec_ndev h]
    exact hs.ndev_pos
  ndev_le := by
    rw [exec_ndev h]
    exact hs.ndev_le
  slots k d hk := by
    rw [exec_ndev h]
    rcases exec_table h with e | ⟨-, k', d', -, hd', e⟩ <;> rw [e] at hk
    · exact hs.slots k d hk
    · rw [DeviceTable.get_bind] at hk
      split at hk
      · cases hk
        exact hd'
      · exact hs.slots k d hk
  devices := by
    cases exec_effect h with
    | served a ha hf d dev hk hd => exact devices_wf_set hs.devices (deviceAfter_wf _ _ _ _ (hs.device_wf hd)) _
    | failed a ha hf d dev hk hd => exact devices_wf_set hs.devices (deviceAfter_wf _ _ _ _ (hs.device_wf hd)) _
    | _ => exact hs.devices
  latch r hr := by
    cases exec_effect h with
    | missed a ha hf hk =>
      cases hr
      exact ⟨decodeAddress_offset_lt a, hk⟩
    | failed a ha hf d dev hk =>
      cases hr
      exact ⟨decodeAddress_offset_lt a, by show s.table.get _ ≠ none; rw [hk]; nofun⟩
    | bound k d hi hf => exact absurd (hf.symm.trans hr) nofun
    | _ => exact hs.latch r hr

section
variable {s : State} (hs : s.Inv)
include hs

/-- Legality says nothing of the inputs. -/
theorem State.Inv.setInputs (xs : List Input) : (s.setInputs xs).Inv :=
  ⟨hs.ndev_pos, hs.ndev_le, hs.slots, hs.devices, hs.latch⟩

/-- A reset leads from a legal state to a legal state. -/
theorem resetBlock_inv : (resetBlock s).Inv where
  ndev_pos := hs.ndev_pos
  ndev_le := hs.ndev_le
  slots k _ hk := absurd ((resetBlock_table_get s k).symm.trans hk) nofun
  devices := hs.devices
  latch := nofun

/-- A device's own activity leads from a legal state to a legal state. -/
theorem deviceActivity_inv (d : DevId) : (deviceActivity d s).Inv where
  ndev_pos := by
    rw [deviceActivity_ndev]
    exact hs.ndev_pos
  ndev_le := by
    rw [deviceActivity_ndev]
    exact hs.ndev_le
  slots k d' hk := by
    rw [deviceActivity_table] at hk
    rw [deviceActivity_ndev]
    exact hs.slots k d' hk
  devices := by
    rcases deviceActivity_cases d s with e | ⟨_, -, e⟩ <;> rw [e]
    · exact hs.devices
    · exact devices_wf_set hs.devices (dev := .external _) trivial _
  latch r hr := by
    rw [deviceActivity_fault] at hr
    rw [deviceActivity_table]
    exact hs.latch r hr

end

/-- Settles O51: each kind of step keeps the invariant. -/
theorem stepKeepsLegality : Obligations.StepKeepsLegality := by
  intro s t hs h
  rcases step_cases h with ⟨-, rfl⟩ | ⟨rest, -, rfl⟩ | ⟨d, rest, -, rfl⟩ | ⟨w, rest, -, h⟩
  · exact hs
  · exact resetBlock_inv (hs.setInputs rest)
  · exact deviceActivity_inv (hs.setInputs rest) d
  · exact exec_keeps_inv (hs.setInputs rest) h

/-! ### Going on -/

/-- The guard stops with no fault by itself. -/
theorem unlessFaulted_ne_fault {s : State} {go : Host.Outcome State Fault Refusal} {f : Fault} (hgo : go ≠ .fault f) :
    unlessFaulted s go ≠ .fault f := by
  rcases unlessFaulted_cases s go with ⟨-, e⟩ | ⟨_, -, e⟩ <;> rw [e]
  · exact hgo
  · nofun

section
variable {s : State} (hs : s.slotsNameDevices) {f : Fault}
include hs

/-- When slots name devices, the common path of READ and WRITE stops with no fault by itself. -/
theorem withDevice_ne_fault {a : Address} {go : Target → DevId → Device → Host.Outcome State Fault Refusal}
    (hgo : ∀ t d dev, go t d dev ≠ .fault f) : withDevice a s go ≠ .fault f := by
  rcases withDevice_cases a s go with ⟨-, e⟩ | ⟨d, dev, -, -, e⟩ | ⟨d, hk, hd, -⟩
  · rw [e]
    nofun
  · rw [e]
    exact hgo _ d dev
  · obtain ⟨dev, hdev⟩ := State.device_of_lt (hs _ d hk)
    exact absurd (hd.symm.trans hdev) nofun

/-- When slots name devices, no instruction stops with a fault. -/
theorem exec_ne_fault (i : Instr) : exec i s ≠ .fault f := by
  cases i with
  | read a => exact unlessFaulted_ne_fault (withDevice_ne_fault hs nofun)
  | write a v => exact unlessFaulted_ne_fault (withDevice_ne_fault hs nofun)
  | install k d =>
    rw [exec_install, execInstall]
    split
    · exact unlessFaulted_ne_fault nofun
    · nofun
  | _ => nofun

end

/-- Settles O52: a legal state's slots name devices, so no access stops, and only INSTALL past the pool is refused. -/
theorem legalStatesGoOn : Obligations.LegalStatesGoOn := by
  intro s hs
  cases hi : s.inputs with
  | nil => exact .inl ⟨s, step_idle hi⟩
  | cons x rest =>
    cases x with
    | reset => exact .inl ⟨_, step_reset hi⟩
    | activity d => exact .inl ⟨_, step_activity hi⟩
    | word w =>
      rw [step_word hi]
      cases he : exec (decodePortWord w) (s.setInputs rest) with
      | next t => exact .inl ⟨t, rfl⟩
      | fault f => exact absurd he (exec_ne_fault (hs.setInputs rest).slots _)
      | refused r =>
        obtain ⟨k, d, hdecode, hd, rfl⟩ := (exec_eq_refused_iff _ _ _).1 he
        exact .inr ⟨w, rest, k, d, rfl, hdecode, hd, rfl⟩

end Sys2Proof.Machine
end

section
/-! SUPPORT. Runs: an invariant kept by each step is kept by a run; a fault latched, a kind bound and a byte written, along
runs without a reset; and the runs that a fault refutes (spec/10_state.md section 9; spec/41_access.md section 3;
spec/60_exceptions.md section 8; spec/70_reset_and_hazards.md sections 1 to 3). -/

namespace Sys2Proof.Machine

/-- A run of no step ends where it starts. -/
theorem run_zero_iff {s t : State} : Host.Core.run core 0 s = .next t ↔ t = s :=
  ⟨fun h => (Host.Outcome.next.inj h).symm, fun h => congrArg Host.Outcome.next h.symm⟩

/-- A property that every step keeps holds at the end of a run when it holds at the start. -/
theorem run_invariant {P : State → Prop} (hstep : ∀ {s t}, P s → step s = .next t → P t) {n : Nat} {s t : State} (hs : P s)
    (h : Host.Core.run core n s = .next t) : P t := by
  induction n generalizing s with
  | zero => exact run_zero_iff.1 h ▸ hs
  | succ n ih =>
    obtain ⟨u, hu, h⟩ := run_succ h
    exact ih (hstep hs hu) h

/-! ### No reset to come -/

/-- No reset is among the inputs to come. -/
def noReset (s : State) : Prop := ∀ x ∈ s.inputs, x ≠ .reset

section
variable {s t : State} (hs : noReset s)
include hs

/-- The next input is no reset. -/
theorem noReset.head (rest : List Input) : s.inputs ≠ .reset :: rest :=
  fun h => hs .reset (h ▸ List.mem_cons_self) rfl

/-- After a step no reset is to come either. -/
theorem noReset.step (h : step s = .next t) : noReset t :=
  fun x hx => hs x (List.mem_of_mem_tail (step_inputs h ▸ hx))

end

/-! ### Faulted for good -/

/-- The block of `t` is that of `s` with the fault `r` latched: the table, the exchanges and every stored byte are those of
`s`. -/
def frozenAt (s : State) (r : FaultRecord) (t : State) : Prop :=
  t.fault = some r ∧ t.table = s.table ∧ t.portLog = s.portLog ∧ ∀ d o, storedByte d o t = storedByte d o s

/-- While a fault is latched, an instruction leaves the block frozen. -/
theorem exec_frozen {i : Instr} {s t : State} {r : FaultRecord} (hf : s.fault = some r) (h : exec i s = .next t) :
    frozenAt s r t := by
  have hclear : s.fault ≠ none := by
    rw [hf]
    nofun
  cases exec_effect h with
  | missed _ _ hf' => exact absurd hf' hclear
  | served _ _ hf' => exact absurd hf' hclear
  | failed _ _ hf' => exact absurd hf' hclear
  | bound _ _ _ hf' => exact absurd hf' hclear
  | _ => exact ⟨hf, rfl, rfl, fun _ _ => rfl⟩

/-- While a fault is latched, a step that is no reset leaves the block frozen. -/
theorem step_frozen {s t : State} {r : FaultRecord} (hf : s.fault = some r) (hno : ∀ rest, s.inputs ≠ .reset :: rest)
    (h : step s = .next t) : frozenAt s r t := by
  rcases step_cases_of_not_reset h hno with rfl | ⟨d, rest, -, rfl⟩ | ⟨w, rest, -, h⟩
  · exact ⟨hf, rfl, rfl, fun _ _ => rfl⟩
  · exact ⟨(deviceActivity_fault d _).trans hf, deviceActivity_table d _, deviceActivity_portLog d _,
      deviceActivity_storedByte d _⟩
  · exact exec_frozen (s := s.setInputs rest) hf h

/-- A step that is no reset and ends with the latch clear starts with it clear. -/
theorem step_fault_eq_none {s t : State} (hno : ∀ rest, s.inputs ≠ .reset :: rest) (h : step s = .next t)
    (ht : t.fault = none) : s.fault = none := by
  by_contra hs
  obtain ⟨r, hr⟩ := Option.ne_none_iff_exists'.1 hs
  obtain ⟨hlatched, -, -, -⟩ := step_frozen hr hno h
  exact absurd (ht.symm.trans hlatched) nofun

/-- Frozen twice is frozen. -/
theorem frozenAt.trans {s t u : State} {r : FaultRecord} (ht : frozenAt s r t) (hu : frozenAt t r u) : frozenAt s r u := by
  obtain ⟨-, httable, htlog, htbyte⟩ := ht
  obtain ⟨hf, hutable, hulog, hubyte⟩ := hu
  exact ⟨hf, hutable.trans httable, hulog.trans htlog, fun d o => (hubyte d o).trans (htbyte d o)⟩

/-- Settles O41: the block stays frozen at the state the run starts from. -/
theorem faultIsTerminalAlongARun : Obligations.FaultIsTerminalAlongARun := by
  intro n s t r hf hs h
  have hfrozen : frozenAt s r t ∧ noReset t :=
    run_invariant (P := fun u => frozenAt s r u ∧ noReset u)
      (fun ⟨hu, hno⟩ hstep => ⟨hu.trans (step_frozen hu.1 hno.head hstep), hno.step hstep⟩)
      ⟨⟨hf, rfl, rfl, fun _ _ => rfl⟩, hs⟩ h
  exact hfrozen.1

/-! ### Bound for good -/

/-- Kind `k` is bound and no ConfigurationError for it is latched. -/
def servesKind (k : Kind) (s : State) : Prop := s.table.get k ≠ none ∧ ∀ o, s.fault ≠ some (.configurationError k o)

/-- An instruction raises no ConfigurationError for a bound kind. -/
theorem exec_fault_ne_configurationError {i : Instr} {s t : State} {k : Kind} (hs : servesKind k s) (h : exec i s = .next t)
    (o : Offset) : t.fault ≠ some (.configurationError k o) := by
  obtain ⟨hk, hf⟩ := hs
  cases exec_effect h with
  | missed a _ _ hempty =>
    rintro ⟨⟩
    exact hk hempty
  | failed => nofun
  | _ => exact hf o

/-- A step that is no reset raises no ConfigurationError for a bound kind. -/
theorem step_fault_ne_configurationError {s t : State} {k : Kind} (hs : servesKind k s)
    (hno : ∀ rest, s.inputs ≠ .reset :: rest) (h : step s = .next t) (o : Offset) :
    t.fault ≠ some (.configurationError k o) := by
  rcases step_cases_of_not_reset h hno with rfl | ⟨d, rest, -, rfl⟩ | ⟨w, rest, -, h⟩
  · exact hs.2 o
  · rw [deviceActivity_fault]
    exact hs.2 o
  · exact exec_fault_ne_configurationError (s := s.setInputs rest) hs h o

/-- A kind that is bound while not faulted is served along every run without a reset. -/
theorem run_servesKind {n : Nat} {s t : State} {k : Kind} (hk : s.table.get k ≠ none) (hf : s.fault = none) (hs : noReset s)
    (h : Host.Core.run core n s = .next t) : servesKind k t := by
  have hserved : servesKind k t ∧ noReset t :=
    run_invariant (P := fun u => servesKind k u ∧ noReset u)
      (fun ⟨hu, hno⟩ hstep => ⟨⟨step_keeps_bound hstep hno.head hu.1, step_fault_ne_configurationError hu hno.head hstep⟩,
        hno.step hstep⟩)
      ⟨⟨hk, fun o => by rw [hf]; nofun⟩, hs⟩ h
  exact hserved.1

/-- Settles O42: each bound kind is served, so with all four bound every kind is. -/
theorem boundKindNeverMissesItsDevice : Obligations.BoundKindNeverMissesItsDevice := by
  intro n s t k hk hf hs h
  obtain ⟨hbound, hmiss⟩ := run_servesKind hk hf hs h
  refine ⟨hbound, hmiss, fun hall => ?_⟩
  have hserved := fun k' => run_servesKind (hall k') hf hs h
  exact ⟨fun k' => (hserved k').1, fun k' => (hserved k').2⟩

/-! ### Refuted for good -/

/-- A step refutes exactly when it starts from a refuted state or ends faulted. -/
theorem step_refuted_iff {s t : State} (h : step s = .next t) : t.refuted ↔ s.refuted ∨ t.fault ≠ none := by
  unfold State.refuted
  rcases step_run h with ⟨rest, -, hended, hf, -⟩ | ⟨-, hended, hkeep⟩
  · rw [hended, hf]
    cases s.fault <;> simp
  · have hf : s.fault ≠ none → t.fault ≠ none := fun hs => by
      obtain ⟨r, hr⟩ := Option.ne_none_iff_exists'.1 hs
      rw [hkeep r hr]
      nofun
    rw [hended]
    tauto

/-- A run leads to a refuted state exactly when it starts from one or passes a faulted state. -/
theorem run_refuted_iff {n : Nat} {s t : State} (h : Host.Core.run core n s = .next t) :
    t.refuted ↔ s.refuted ∨ ∃ m u, m ≤ n ∧ Host.Core.run core m s = .next u ∧ u.fault ≠ none := by
  induction n generalizing s with
  | zero =>
    obtain rfl := run_zero_iff.1 h
    refine ⟨.inl, ?_⟩
    rintro (hs | ⟨m, u, hm, hu, hf⟩)
    · exact hs
    · obtain rfl := Nat.le_zero.1 hm
      exact .inl (run_zero_iff.1 hu ▸ hf)
  | succ n ih =>
    obtain ⟨u, hu, h⟩ := run_succ h
    rw [ih h, step_refuted_iff hu]
    constructor
    · rintro ((hs | hf) | ⟨m, w, hm, hw, hf⟩)
      · exact .inl hs
      · exact .inr ⟨1, u, by omega, run_succ_iff.2 ⟨u, hu, run_zero_iff.2 rfl⟩, hf⟩
      · exact .inr ⟨m + 1, w, by omega, run_succ_iff.2 ⟨u, hu, hw⟩, hf⟩
    · rintro (hs | ⟨m, w, hm, hw, hf⟩)
      · exact .inl (.inl hs)
      · cases m with
        | zero => exact .inl (.inl (.inl (run_zero_iff.1 hw ▸ hf)))
        | succ m =>
          obtain ⟨u', hu', hw⟩ := run_succ hw
          cases hu.symm.trans hu'
          exact .inr ⟨m, w, by omega, hw, hf⟩

/-- Settles O54: a run is refuted by the faulted states it passes; not refuted with no input left is `endedWell`. -/
theorem aFaultedRunIsRefutedForGood : Obligations.AFaultedRunIsRefutedForGood := fun _ _ _ h =>
  ⟨run_refuted_iff h, fun hr hwell => hwell.2 hr, fun hi hr => ⟨⟨hi, hr⟩, hi, not_not.1 fun hf => hr (.inl hf)⟩⟩

/-! ### A byte of RAM along a run -/

/-- Device `d` is in the InternalRAM slot and in no other, and its byte `o` is `v`. -/
def ramHolds (d : DevId) (o : Offset) (v : Byte) (s : State) : Prop :=
  s.table.get .internalRAM = some d ∧ (∀ k, k ≠ .internalRAM → s.table.get k ≠ some d) ∧ storedByte d o s = some v

/-- The input is no reset, no WRITE to the byte `o` of RAM, and no INSTALL to the InternalRAM kind or of device `d`. -/
def sparesRam (d : DevId) (o : Offset) (x : Input) : Prop :=
  x ≠ .reset ∧ ∀ w, x = .word w →
    (∀ a v, decodePortWord w = .write a v → decodeAddress a ≠ ⟨.internalRAM, o⟩) ∧
    ∀ k d', decodePortWord w = .install k d' → k ≠ .internalRAM ∧ d' ≠ d

section
variable {d : DevId} {o : Offset} {v : Byte} {s t : State}

/-- An instruction that spares the byte leaves RAM holding it. -/
theorem exec_ramHolds {i : Instr} (hs : ramHolds d o v s)
    (hwrite : ∀ a v, i = .write a v → decodeAddress a ≠ ⟨.internalRAM, o⟩)
    (hinstall : ∀ k d', i = .install k d' → k ≠ .internalRAM ∧ d' ≠ d) (h : exec i s = .next t) : ramHolds d o v t := by
  obtain ⟨hram, honly, hbyte⟩ := hs
  have hstored : storedByte d o t = some v := by
    rw [exec_storedByte h fun a v' hi hk ho => ?_, hbyte]
    have hkind : (decodeAddress a).kind = .internalRAM := by
      by_contra hne
      exact honly _ hne hk
    exact hwrite a v' hi (by rw [← hkind, ho])
  rcases exec_table h with e | ⟨-, k, d', hi, -, e⟩
  · exact ⟨e ▸ hram, e ▸ honly, hstored⟩
  · obtain ⟨hk, hd⟩ := hinstall k d' hi
    refine ⟨?_, fun k' hk' => ?_, hstored⟩
    · rw [e, DeviceTable.get_bind_other _ hk.symm, hram]
    · rw [e, DeviceTable.get_bind]
      split
      · exact fun heq => hd (Option.some.inj heq)
      · exact honly k' hk'

/-- A step whose input spares the byte leaves RAM holding it. -/
theorem step_ramHolds {x : Input} {rest : List Input} (hs : ramHolds d o v s) (hi : s.inputs = x :: rest)
    (hx : sparesRam d o x) (h : step s = .next t) : ramHolds d o v t := by
  obtain ⟨hreset, hword⟩ := hx
  cases x with
  | reset => exact absurd rfl hreset
  | activity d' =>
    rw [step_activity hi] at h
    cases h
    exact ⟨by rw [deviceActivity_table]; exact hs.1, by rw [deviceActivity_table]; exact hs.2.1,
      (deviceActivity_storedByte d' _ d o).trans hs.2.2⟩
  | word w =>
    rw [step_word hi] at h
    obtain ⟨hwrite, hinstall⟩ := hword w rfl
    exact exec_ramHolds (s := s.setInputs rest) hs hwrite hinstall h

/-- Inputs that spare the byte, performed, leave RAM holding it and the inputs behind them to come. -/
theorem run_ramHolds {mid rest : List Input} {n : Nat} (hs : ramHolds d o v s) (hi : s.inputs = mid ++ rest)
    (hmid : ∀ x ∈ mid, sparesRam d o x) (h : Host.Core.run core (mid.length + n) s = .next t) :
    ∃ u, ramHolds d o v u ∧ u.inputs = rest ∧ Host.Core.run core n u = .next t := by
  induction mid generalizing s with
  | nil => exact ⟨s, hs, hi, by rwa [List.length_nil, Nat.zero_add] at h⟩
  | cons x mid ih =>
    rw [List.length_cons, Nat.add_right_comm] at h
    obtain ⟨u, hu, h⟩ := run_succ h
    have hinputs : u.inputs = mid ++ rest := by rw [step_inputs hu, hi, List.cons_append, List.tail_cons]
    exact ih (step_ramHolds hs hi (hmid x List.mem_cons_self) hu) hinputs
      (fun y hy => hmid y (List.mem_cons_of_mem _ hy)) h

/-- A device whose byte is stored is a RAM that has it. -/
theorem device_of_storedByte (h : storedByte d o s = some v) :
    ∃ size mem, s.device d = some (.ram size mem) ∧ o.toNat < size ∧ ramByte d mem o = v := by
  rw [storedByte_eq_bind] at h
  obtain ⟨dev, hd, h⟩ := Option.bind_eq_some_iff.1 h
  cases dev with
  | ram size mem =>
    obtain ⟨ho, hv⟩ := Option.ite_none_right_eq_some.1 h
    exact ⟨size, mem, hd, ho, Option.some.inj hv⟩
  | trace c calls => cases h
  | external st => cases h

/-- A READ of a RAM address whose byte is held answers it. -/
theorem exec_read_ramHolds {a : Address} (hs : ramHolds d (decodeAddress a).offset v s) (hf : s.fault = none)
    (ha : a.toNat ≤ 0x1FFF) (h : exec (.read a) s = .next t) :
    t.responses = .byte .internalRAM (decodeAddress a).offset v :: s.responses := by
  obtain ⟨hram, -, hbyte⟩ := hs
  obtain ⟨size, mem, hd, ho, hv⟩ := device_of_storedByte hbyte
  have hkind := (decodeAddress_kind_eq_internalRAM_iff a).2 ha
  rw [exec_read_ram hf (hkind ▸ hram) hd ho, hkind, hv] at h
  cases h
  rfl

/-- A WRITE to a RAM address of the reference RAM, which is in no other slot, leaves RAM holding the value. -/
theorem exec_write_ramHolds {a : Address} {mem : Memory} (hf : s.fault = none) (ha : a.toNat ≤ 0x1FFF)
    (hram : s.table.get .internalRAM = some d) (honly : ∀ k, k ≠ .internalRAM → s.table.get k ≠ some d)
    (hd : s.device d = some (.ram 0x0800 mem)) (h : exec (.write a v) s = .next t) :
    ramHolds d (decodeAddress a).offset v t := by
  have hkind := (decodeAddress_kind_eq_internalRAM_iff a).2 ha
  have hbyte : storedByte d (decodeAddress a).offset s ≠ none := by
    rw [storedByte_of_device hd, deviceByte, if_pos (decodeAddress_ram_offset_lt ha)]
    nofun
  have hstored := storedByte_of_exec_write h hf (hkind ▸ hram) hbyte
  rcases exec_table h with e | ⟨-, k, d', hi, -⟩
  · exact ⟨e ▸ hram, e ▸ honly, hstored⟩
  · cases hi

end

/-- Settles O34: the WRITE leaves RAM holding the value, the requests in between keep it, and the READ answers it; a fault on
the way would be latched at the end. -/
theorem ramMirrorAcrossARun : Obligations.RamMirrorAcrossARun := by
  intro a₁ a₂ v s t d mem mid rest h₁ h₂ hmod hf hram honly hd hi hmid h hft
  have halias := (decodeAddress_ram_eq_iff h₁ h₂).2 hmod
  have hspares : ∀ x ∈ mid, sparesRam d (decodeAddress a₁).offset x := fun x hx => ⟨(hmid x hx).1, fun w hw => by
    obtain ⟨hwrite, hinstall⟩ := (hmid x hx).2 w hw
    refine ⟨fun a' v' hdecode => ?_, hinstall⟩
    rw [← (decodeAddress_kind_eq_internalRAM_iff a₁).2 h₁]
    exact hwrite a' v' hdecode⟩
  obtain ⟨u, hu, h⟩ := run_succ h
  have huinputs : u.inputs = mid ++ .word (encode (.read a₂)) :: rest := by rw [step_inputs hu, hi, List.tail_cons]
  rw [step_word hi, decodingTheEncodingGivesTheInstruction] at hu
  have huholds := exec_write_ramHolds (s := s.setInputs (mid ++ .word (encode (.read a₂)) :: rest)) hf h₁ hram honly hd hu
  obtain ⟨w, hwholds, hwinputs, h⟩ := run_ramHolds huholds huinputs hspares h
  obtain ⟨t', ht, h⟩ := run_succ h
  obtain rfl := run_zero_iff.1 h
  have hwf := step_fault_eq_none (by rw [hwinputs]; nofun) ht hft
  rw [step_word hwinputs, decodingTheEncodingGivesTheInstruction] at ht
  rw [halias] at hwholds
  rw [exec_read_ramHolds (s := w.setInputs rest) hwholds hwf h₂ ht, List.head?_cons]

end Sys2Proof.Machine
end
